-- ==== Sys2Proof/Word.lean ====
section
/-! DEFINITION. The plain data of the machine: bytes, 32-bit bus words, 18-bit register offsets
(00_scope.md R14), byte sequences (R16), the 16-byte block (R16) and the key-schedule word of four
bytes (R19). -/

namespace Sys2Proof

/-- A byte, 0..255 (R15). -/
abbrev Byte := BitVec 8

/-- A bus word: every register and every command is one (R14, R90). -/
abbrev Word := BitVec 32

/-- A byte offset from CORE_BASE inside the 256 KiB window (R14). -/
abbrev Offset := BitVec 18

/-- A byte sequence, first byte first (R16). -/
abbrev Bytes := List Byte

/-- Exactly 16 bytes; the cipher state is indexed column * 4 + row (R16). -/
abbrev Block := Vector Byte 16

/-- Four consecutive bytes of the key schedule, ALT3Z's "words" (R19). -/
abbrev KeyWord := Vector Byte 4

end Sys2Proof
end

