-- ==== Sys2Proof/Syntax.lean ====
section
/-! DEFINITION. The command set: one constructor per row of spec/opcode_table.json (30_encoding.md R94). -/

namespace Sys2Proof

/-- A command of the block. Operands are implicit (R93); only ADD_ROUND_KEY has a field, ROUND (R91). -/
inductive Instr where
  /-- NOP, 0x00 (40_command_control.md R116). -/
  | nop
  /-- EXPAND_KEY, 0x01 (43_key_schedule.md R174). -/
  | expandKey
  /-- ENC_BLOCK, 0x02 (44_block_cipher.md R196). -/
  | encBlock
  /-- DEC_BLOCK, 0x03 (44_block_cipher.md R197). -/
  | decBlock
  /-- ECB_ENC, 0x04 (46_modes.md R231). -/
  | ecbEnc
  /-- ECB_DEC, 0x05 (46_modes.md R232). -/
  | ecbDec
  /-- CBC_ENC, 0x06 (46_modes.md R234). -/
  | cbcEnc
  /-- CBC_DEC, 0x07 (46_modes.md R236). -/
  | cbcDec
  /-- PAD, 0x08 (45_padding.md R214). -/
  | pad
  /-- UNPAD, 0x09 (45_padding.md R215). -/
  | unpad
  /-- GF_MUL, 0x10 (41_constants_gf.md R137). -/
  | gfMul
  /-- SUB_BYTES, 0x11 (42_round_primitives.md R157). -/
  | subBytes
  /-- INV_SUB_BYTES, 0x12 (42_round_primitives.md R158). -/
  | invSubBytes
  /-- SHIFT_ROWS, 0x13 (42_round_primitives.md R159). -/
  | shiftRows
  /-- INV_SHIFT_ROWS, 0x14 (42_round_primitives.md R160). -/
  | invShiftRows
  /-- MIX_COLUMNS, 0x15 (42_round_primitives.md R161). -/
  | mixColumns
  /-- INV_MIX_COLUMNS, 0x16 (42_round_primitives.md R162). -/
  | invMixColumns
  /-- ADD_ROUND_KEY, 0x17, with its ROUND field (42_round_primitives.md R163). -/
  | addRoundKey (round : BitVec 4)
  deriving DecidableEq, Repr

end Sys2Proof
end

