-- ==== Sys2Proof/WellFormed.lean ====
section
/-! DEFINITION. Which terms of Instr are commands of the hardware: ADD_ROUND_KEY has ROUND 0..10
(30_encoding.md R92); every other command has no field. -/

namespace Sys2Proof

/-- R92, R95: round keys are numbered 0..10; ROUND 11..15 is illegal (R96). -/
def Instr.wellFormed : Instr → Bool
  | .nop => true
  | .expandKey => true
  | .encBlock => true
  | .decBlock => true
  | .ecbEnc => true
  | .ecbDec => true
  | .cbcEnc => true
  | .cbcDec => true
  | .pad => true
  | .unpad => true
  | .gfMul => true
  | .subBytes => true
  | .invSubBytes => true
  | .shiftRows => true
  | .invShiftRows => true
  | .mixColumns => true
  | .invMixColumns => true
  | .addRoundKey round => decide (round.toNat ≤ 10)

end Sys2Proof
end

