-- ==== Sys2Proof/Decode.lean ====
section
/-! DEFINITION. The decoder of 30_encoding.md R95, total on every 32-bit word, which names the reason it
rejects a word (R96), and the encoder written from the same table (R91, R94). -/

namespace Sys2Proof

/-- Why a command word is illegal, one name for each clause of R96. The hardware reports all of them
as error code 4, IllegalCommand; the names are the model's choice (log 20). -/
inductive IllegalReason where
  /-- RSVD, bits [31:12], is not 0. -/
  | reservedBits
  /-- OPCODE is in 0x0A..0x0F or 0x18..0xFF. -/
  | reservedOpcode
  /-- ROUND is not 0 on a command other than ADD_ROUND_KEY. -/
  | roundNotZero
  /-- ROUND is in 11..15 on ADD_ROUND_KEY. -/
  | roundOutOfRange
  deriving DecidableEq, Repr

/-- R95: what the decoder answers, a command or Illegal. -/
inductive Decoded where
  | command (i : Instr)
  | illegal (why : IllegalReason)
  deriving DecidableEq, Repr

/-- OPCODE, bits [7:0] (R91). -/
def opcodeField (w : Word) : BitVec 8 := w.extractLsb' 0 8

/-- ROUND, bits [11:8] (R91). -/
def roundField (w : Word) : BitVec 4 := w.extractLsb' 8 4

/-- RSVD, bits [31:12] (R91). -/
def reservedField (w : Word) : BitVec 20 := w.extractLsb' 12 20

/-- The rows of R94 whose ROUND must be 0. -/
def plainCommand (op : BitVec 8) : Option Instr :=
  match op with
  | 0x00#8 => some .nop
  | 0x01#8 => some .expandKey
  | 0x02#8 => some .encBlock
  | 0x03#8 => some .decBlock
  | 0x04#8 => some .ecbEnc
  | 0x05#8 => some .ecbDec
  | 0x06#8 => some .cbcEnc
  | 0x07#8 => some .cbcDec
  | 0x08#8 => some .pad
  | 0x09#8 => some .unpad
  | 0x10#8 => some .gfMul
  | 0x11#8 => some .subBytes
  | 0x12#8 => some .invSubBytes
  | 0x13#8 => some .shiftRows
  | 0x14#8 => some .invShiftRows
  | 0x15#8 => some .mixColumns
  | 0x16#8 => some .invMixColumns
  | _ => none

/-- R95, in its order: RSVD first, then ADD_ROUND_KEY, then the other commands. -/
def decode (w : Word) : Decoded :=
  if reservedField w ≠ 0 then .illegal .reservedBits
  else if opcodeField w = 0x17#8 then
    if (roundField w).toNat ≤ 10 then .command (.addRoundKey (roundField w))
    else .illegal .roundOutOfRange
  else
    match plainCommand (opcodeField w) with
    | some i => if roundField w = 0 then .command i else .illegal .roundNotZero
    | none => .illegal .reservedOpcode

/-- A CMD32 word with RSVD 0 (R91). -/
def commandWord (op : BitVec 8) (round : BitVec 4) : Word :=
  (round.zeroExtend 32 <<< 8) ||| op.zeroExtend 32

/-- The word of a command, from the table of R94. -/
def encode : Instr → Word
  | .nop => commandWord 0x00#8 0
  | .expandKey => commandWord 0x01#8 0
  | .encBlock => commandWord 0x02#8 0
  | .decBlock => commandWord 0x03#8 0
  | .ecbEnc => commandWord 0x04#8 0
  | .ecbDec => commandWord 0x05#8 0
  | .cbcEnc => commandWord 0x06#8 0
  | .cbcDec => commandWord 0x07#8 0
  | .pad => commandWord 0x08#8 0
  | .unpad => commandWord 0x09#8 0
  | .gfMul => commandWord 0x10#8 0
  | .subBytes => commandWord 0x11#8 0
  | .invSubBytes => commandWord 0x12#8 0
  | .shiftRows => commandWord 0x13#8 0
  | .invShiftRows => commandWord 0x14#8 0
  | .mixColumns => commandWord 0x15#8 0
  | .invMixColumns => commandWord 0x16#8 0
  | .addRoundKey round => commandWord 0x17#8 round

/-- The command of a table row's bits: the low `nbits` bits of `w`, the bits above them 0. A number
that does not fit the 32 bits of a command (R90) is no command. -/
def decodeTableWord (nbits w : Nat) : Option Instr :=
  if w % 2 ^ nbits < 2 ^ 32 then
    match decode (BitVec.ofNat 32 (w % 2 ^ nbits)) with
    | .command i => some i
    | .illegal _ => none
  else none

end Sys2Proof
end

