-- ==== Sys2Proof/Config.lean ====
section
/-! DEFINITION. The constants of the block and the free values of the spec. A free value is an opaque
constant with no body: nothing can be proved of what it is, so a claim holds whatever it is. -/

namespace Sys2Proof.Config

/-- The ID register's constant, ASCII "AES1" (10_state.md R21). -/
def idValue : Word := 0x41455331

/-- The default of BUF_BYTES is 4096 (00_scope.md R13): 256 blocks of 16 bytes, held as one less than
the number of blocks. -/
def defaultBufBlocks : Fin 4095 := 255

/-- FREE VALUE (93_implementation_defined.md I3; log 4): what a byte of the RK RAM, the IN buffer or the
OUT buffer holds after reset, until it is next written. The first argument is the reset epoch, the
second the byte's offset. -/
opaque ramDraw : Nat → Nat → Byte

/-- FREE VALUE (10_state.md R48; log 5): the unspecified bits of the n-th read that takes a draw while
BUSY = 1. -/
opaque busyDraw : Nat → Word

/-- FREE VALUE (70_reset_and_hazards.md R280; log 6): the data of the n-th reply given during reset. -/
opaque resetDataDraw : Nat → Word

/-- FREE VALUE (70_reset_and_hazards.md R280; log 6): whether the n-th reply given during reset is ERROR. -/
opaque resetErrorDraw : Nat → Bool

end Sys2Proof.Config
end

