-- ==== Sys2Proof/Machine/State.lean ====
section
/-! DEFINITION. The state of the block as plain data (10_state.md), its faults and refusals, and the state
right after reset (R47). INVENTORY.md lists every field with its rule. -/

namespace Sys2Proof.Machine

/-- The error codes of 60_exceptions.md R250. Codes 8..15 are never produced, so they have no name here
(93_implementation_defined.md I11). -/
inductive ErrCode where
  /-- 0: no error. -/
  | none
  /-- 1: KEY_LEN is not 16. -/
  | invalidKeyLength
  /-- 2: IN_LEN is not 16 on a block command. -/
  | invalidBlockLength
  /-- 3: IN_LEN is not a positive multiple of 16 on a mode's decryption. -/
  | invalidCiphertextLength
  /-- 4: the word is no command. -/
  | illegalCommand
  /-- 5: ADD_ROUND_KEY while KEY_VALID = 0. -/
  | noRoundKeys
  /-- 6: IN_LEN is above BUF_BYTES. -/
  | bufferRange
  /-- 7: UNPAD of an empty input. -/
  | emptyInput
  deriving DecidableEq, Repr

/-- The fields of STATUS (10_state.md R25). The reserved bits are RAZ/WI and hold nothing. -/
structure Status where
  busy : Bool
  done : Bool
  err : Bool
  keyValid : Bool
  padFallback : Bool
  wign : Bool
  errCode : ErrCode
  deriving DecidableEq, Repr

/-- The fields of the GF register (10_state.md R38). -/
structure GfReg where
  a : Byte
  b : Byte
  p : Byte
  deriving DecidableEq, Repr

/-- The phases of the core's controller (10_state.md R44). -/
inductive Phase where
  | idle
  | accept
  | keyexp
  | load
  | init
  | round
  | final
  | store
  | unpad
  | complete
  deriving DecidableEq, Repr

/-- The hidden controller state (10_state.md R44). `sched` and `out` are the model's own: the round keys
produced so far and the output bytes produced so far (log 8). -/
structure Controller where
  /-- The phase step that the core's next clock performs. -/
  phase : Phase
  /-- The captured command word. -/
  word : Word
  /-- The round counter `rnd`. -/
  rnd : Nat
  /-- The block counter. -/
  blk : Nat
  /-- The working state. -/
  work : Block
  /-- The CBC `previous` value. -/
  prev : Block
  /-- The running output length. -/
  runLen : Nat
  /-- The key schedule under construction. -/
  sched : Bytes
  /-- The output bytes produced so far. -/
  out : Bytes
  deriving DecidableEq, Repr

/-- The controller when no command executes: phase IDLE and nothing in flight (R47). The other hidden
values are the model's (log 9); nothing observes them. -/
def Controller.idle : Controller :=
  { phase := .idle, word := 0, rnd := 0, blk := 0, work := Vector.replicate 16 0,
    prev := Vector.replicate 16 0, runLen := 0, sched := [], out := [] }

/-- The response of a bus transaction (20_memory.md R60). -/
inductive Resp where
  | ok
  | error
  deriving DecidableEq, Repr

/-- What a transaction returns: a read its data and response, a write its response (R60). -/
inductive BusReply where
  | read (data : Word) (resp : Resp)
  | write (resp : Resp)
  deriving DecidableEq, Repr

/-- What reaches the block from outside, in the one order of 20_memory.md R70: a bus transaction (R60),
one phase step's worth of the core's clock (log 3), or a change of the reset input
(70_reset_and_hazards.md R280). -/
inductive BusEvent where
  | read (off : Offset)
  | write (off : Offset) (data : Word)
  | clock
  | assertReset
  | releaseReset
  deriving DecidableEq, Repr

/-- The block's RAM bytes, as (offset, byte) pairs with strictly rising offsets. A byte that is not
listed has not been written since reset (log 15). -/
abbrev Memory := List Host.Cell

/-- The state of the block. -/
structure State where
  /-- BUF_BYTES = 16 * (bufBlocks + 1): the instance's parameter, read through PARAM (R13, R22; log 1). -/
  bufBlocks : Fin 4095
  /-- CTRL.IRQ_EN (R23). -/
  irqEn : Bool
  /-- CMD (R24). -/
  cmd : Word
  /-- STATUS (R25). -/
  status : Status
  /-- KEY_LEN.LEN (R32). -/
  keyLen : Byte
  /-- IN_LEN (R32). -/
  inLen : Word
  /-- OUT_LEN (R32). -/
  outLen : Word
  /-- GF (R38). -/
  gf : GfReg
  /-- KEY0..KEY3 as 16 bytes (R34). -/
  key : Block
  /-- IV0..IV3 as 16 bytes (R35). -/
  iv : Block
  /-- STATE0..STATE3 as 16 bytes (R33). -/
  cipherState : Block
  /-- CHAIN0..CHAIN3 as 16 bytes (R36). -/
  chain : Block
  /-- The RK RAM, the IN buffer and the OUT buffer (R37, R39, R40). -/
  mem : Memory
  /-- The hidden controller state (R44). -/
  ctl : Controller
  /-- The reset input is asserted (70_reset_and_hazards.md R280). -/
  inReset : Bool
  /-- The events still to come, oldest first (log 3). -/
  inputs : List BusEvent
  /-- What the latest transaction returned (20_memory.md R60; log 13). -/
  reply : Option BusReply
  /-- The model's own: how many resets lie behind, so that each has its own RAM draws (log 12). -/
  epoch : Nat
  /-- The model's own: how many draws have been taken (log 12). -/
  draws : Nat
  deriving DecidableEq, Repr

/-- Why the machine stops. It has no constructor: every command, transaction and reset of this hardware
has a next state (40_command_control.md R115; log 23). -/
inductive Fault where
  deriving DecidableEq, Repr

/-- Why an instruction has no meaning. -/
inductive Refusal where
  /-- Raised by an arm of exec whose instruction is not modelled yet; safe. No arm raises it now. -/
  | notModelled (mnemonic : String)
  deriving DecidableEq, Repr

/-- Every STATUS field is 0 after reset (R47). -/
def Status.reset : Status :=
  { busy := false, done := false, err := false, keyValid := false, padFallback := false,
    wign := false, errCode := .none }

/-- The state after reset of an instance with the given buffer size (R47, R281). -/
def State.resetWith (bufBlocks : Fin 4095) : State :=
  { bufBlocks := bufBlocks
    irqEn := false
    cmd := 0
    status := Status.reset
    keyLen := 0x10
    inLen := 0
    outLen := 0
    gf := { a := 0, b := 0, p := 0 }
    key := Vector.replicate 16 0
    iv := Vector.replicate 16 0
    cipherState := Vector.replicate 16 0
    chain := Vector.replicate 16 0
    mem := []
    ctl := Controller.idle
    inReset := false
    inputs := []
    reply := none
    epoch := 0
    draws := 0 }

/-- The machine right after reset release (R47, R281), with the default BUF_BYTES of R13 (log 1). -/
def State.reset : State := State.resetWith Config.defaultBufBlocks

end Sys2Proof.Machine
end

