-- ==== Sys2Proof/Machine/Flags.lean ====
section
/-! DEFINITION. STATUS: its word (10_state.md R25), its W1C write, and how a store, an acceptance, an error and a
completion change its fields (R26 to R31; 40_command_control.md R110 to R114; 60_exceptions.md R252). -/

namespace Sys2Proof.Machine

/-- The number of an error code (60_exceptions.md R250). -/
def ErrCode.code : ErrCode → BitVec 4
  | .none => 0
  | .invalidKeyLength => 1
  | .invalidBlockLength => 2
  | .invalidCiphertextLength => 3
  | .illegalCommand => 4
  | .noRoundKeys => 5
  | .bufferRange => 6
  | .emptyInput => 7

/-- A flag as bit k of a word. -/
def flagBit (b : Bool) (k : Nat) : Word := if b then 1#32 <<< k else 0

/-- The STATUS word (R25); every other bit reads 0. -/
def Status.toWord (st : Status) : Word :=
  flagBit st.busy 0 ||| flagBit st.done 1 ||| flagBit st.err 2 ||| flagBit st.keyValid 3 |||
    flagBit st.padFallback 4 ||| flagBit st.wign 5 ||| (st.errCode.code.zeroExtend 32 <<< 8)

/-- A write to STATUS while BUSY = 0 (R25): a 1 in bit 1, 2, 4 or 5 clears DONE, ERR with ERR_CODE,
PAD_FALLBACK or WIGN. -/
def Status.w1c (st : Status) (w : Word) : Status :=
  { st with
    done := st.done && !w.getLsbD 1
    err := st.err && !w.getLsbD 2
    errCode := if w.getLsbD 2 then .none else st.errCode
    padFallback := st.padFallback && !w.getLsbD 4
    wign := st.wign && !w.getLsbD 5 }

/-- What the store of a command word clears (40_command_control.md R110). -/
def Status.stored (st : Status) : Status :=
  { st with done := false, err := false, errCode := .none, padFallback := false }

/-- Acceptance sets BUSY (R112). -/
def Status.accepted (st : Status) : Status := { st with busy := true }

/-- Completion clears BUSY and sets DONE (R114). -/
def Status.completed (st : Status) : Status := { st with busy := false, done := true }

/-- Completion with an error (60_exceptions.md R252). -/
def Status.failed (st : Status) (e : ErrCode) : Status :=
  { st with busy := false, done := true, err := true, errCode := e }

/-- A lost write while BUSY = 1 (10_state.md R31). -/
def Status.writeIgnored (st : Status) : Status := { st with wign := true }

/-- A write to KEY or KEY_LEN (10_state.md R29). -/
def Status.keyChanged (st : Status) : Status := { st with keyValid := false }

/-- The completion of a command that expands the key (10_state.md R29). -/
def Status.keyExpanded (st : Status) : Status := { st with keyValid := true }

end Sys2Proof.Machine
end

