-- ==== Sys2Proof/Machine/Operands.lean ====
section
/-! DEFINITION. The operand forms of the block: bytes packed in bus words (20_memory.md R61), blocks, slices of
byte sequences (00_scope.md R16), and the RAM spaces IN, OUT and RK (R17). -/

namespace Sys2Proof.Machine

/-- Bits [8j+7 : 8j] of a word (20_memory.md R61). -/
def wordByte (w : Word) (j : Nat) : Byte := w.extractLsb' (8 * j) 8

/-- The word whose byte j is the j-th argument (R61: little-endian, not switchable). -/
def packWord (b0 b1 b2 b3 : Byte) : Word :=
  b0.zeroExtend 32 ||| (b1.zeroExtend 32 <<< 8) ||| (b2.zeroExtend 32 <<< 16) |||
    (b3.zeroExtend 32 <<< 24)

/-- The four bytes of a word, byte 0 first (R61). -/
def wordBytes (w : Word) : Bytes := [wordByte w 0, wordByte w 1, wordByte w 2, wordByte w 3]

/-- The half-open slice d[a : a + n) (00_scope.md R16), cut short at the end of d. -/
def slice (d : Bytes) (a n : Nat) : Bytes := (d.drop a).take n

/-- The first 16 bytes of a sequence as a block (0 where the sequence is shorter, which no command
meets). -/
def blockOfBytes (d : Bytes) : Block := Vector.ofFn fun i : Fin 16 => d.getD i.val 0

/-- A block as a byte sequence, byte 0 first. -/
def blockBytes (b : Block) : Bytes := b.toList

/-- Word k of a 16-byte register group NAME (R61). -/
def blockWord (b : Block) (k : Fin 4) : Word :=
  packWord b[4 * k.val] b[4 * k.val + 1] b[4 * k.val + 2] b[4 * k.val + 3]

/-- A 16-byte register group after its word k is written (R61). -/
def setBlockWord (b : Block) (k : Fin 4) (w : Word) : Block :=
  Vector.ofFn fun i : Fin 16 => if i.val / 4 = k.val then wordByte w (i.val % 4) else b[i.val]

/-- The byte-wise XOR of two blocks (R16). -/
def xorBlock (s k : Block) : Block := Vector.ofFn fun i : Fin 16 => s[i.val] ^^^ k[i.val]

/-- The RAM spaces of MemRead and MemWrite (R17). -/
inductive Space where
  | rk
  | inBuf
  | outBuf
  deriving DecidableEq, Repr

/-- The offset of byte 0 of a space (10_state.md R37, R39, R40). -/
def Space.base : Space → Nat
  | .rk => 0x00100
  | .inBuf => 0x10000
  | .outBuf => 0x20000

/-- BUF_BYTES, a multiple of 16 in 16..65520 (00_scope.md R13). -/
def bufBytes (s : State) : Nat := 16 * (s.bufBlocks.val + 1)

/-- The size of a space in bytes (10_state.md R37, R39, R40). -/
def Space.size (s : State) : Space → Nat
  | .rk => 176
  | .inBuf => bufBytes s
  | .outBuf => bufBytes s + 16

end Sys2Proof.Machine
end

