-- ==== Sys2Proof/Machine/Ops.lean ====
section
/-! DEFINITION. The shared operations: RAM reads and writes (00_scope.md R17), the command lifecycle of
40_command_control.md (R110 to R114), the precondition checks and the error completion of 60_exceptions.md
(R251, R252), the interrupt output (R262) and the reset event (70_reset_and_hazards.md R280). -/

namespace Sys2Proof.Machine

/-! ## RAM -/

/-- The byte written at an offset since reset; none where nothing was written (log 15). This is the one
place that says what an unlisted offset holds. -/
def memGet : Memory → Nat → Option Byte
  | [], _ => none
  | (b, v) :: m, a => if a = b then some v else memGet m a

/-- Write one byte, keeping the offsets strictly rising. -/
def memSet : Memory → Nat → Byte → Memory
  | [], a, v => [(a, v)]
  | (b, w) :: m, a, v =>
    if a < b then (a, v) :: (b, w) :: m
    else if a = b then (a, v) :: m
    else (b, w) :: memSet m a v

/-- Write consecutive bytes from an offset on. -/
def memSetBytes : Memory → Nat → Bytes → Memory
  | m, _, [] => m
  | m, a, v :: vs => memSetBytes (memSet m a v) (a + 1) vs

/-- The canonical form: offsets strictly rising. -/
def Memory.wf : Memory → Bool
  | [] => true
  | [_] => true
  | (a, _) :: (b, v) :: m => decide (a < b) && Memory.wf ((b, v) :: m)

/-- The RAM byte at an offset: what was last written there, or the offset's power-on draw
(10_state.md R47; 93_implementation_defined.md I3; log 4). -/
def byteAt (s : State) (a : Nat) : Byte := (memGet s.mem a).getD (Config.ramDraw s.epoch a)

/-- MemRead(SPACE, off, n) (R17). -/
def memRead (s : State) (sp : Space) (off n : Nat) : Bytes :=
  (List.range n).map fun j => byteAt s (sp.base + off + j)

/-- MemWrite(SPACE, off, len(v), v) (R17). -/
def memWrite (sp : Space) (off : Nat) (v : Bytes) (s : State) : State :=
  { s with mem := memSetBytes s.mem (sp.base + off) v }

/-! ## The writes of command completions (40_command_control.md R118) -/

/-- Bytes16(STATE) <- v. -/
def setCipherState (v : Block) (s : State) : State := { s with cipherState := v }

/-- Bytes16(CHAIN) <- v. -/
def setChain (v : Block) (s : State) : State := { s with chain := v }

/-- x[GF].P <- v. -/
def setProduct (v : Byte) (s : State) : State := { s with gf := { s.gf with p := v } }

/-- x[STATUS].PAD_FALLBACK <- f. -/
def setPadFallback (f : Bool) (s : State) : State :=
  { s with status := { s.status with padFallback := f } }

/-- MemWrite(OUT, 0, len(v), v); x[OUT_LEN] <- n. -/
def writeOutput (v : Bytes) (n : Nat) (s : State) : State :=
  { memWrite .outBuf 0 v s with outLen := BitVec.ofNat 32 n }

/-- MemWrite(RK, 0, 176, rk); x[STATUS].KEY_VALID <- 1 (43_key_schedule.md R171). -/
def writeSchedule (rk : Bytes) (s : State) : State :=
  { memWrite .rk 0 rk s with status := s.status.keyExpanded }

/-- The input of a command: MemRead(IN, 0, IN_LEN) (30_encoding.md R93). -/
def inBytes (s : State) : Bytes := memRead s .inBuf 0 s.inLen.toNat

/-! ## The command lifecycle -/

/-- "c reads IN" (60_exceptions.md R251). -/
def readsIn : Instr → Bool
  | .encBlock | .decBlock | .ecbEnc | .ecbDec | .cbcEnc | .cbcDec | .pad | .unpad => true
  | .nop | .expandKey | .gfMul | .subBytes | .invSubBytes | .shiftRows | .invShiftRows
  | .mixColumns | .invMixColumns | .addRoundKey _ => false

/-- "c uses the key" (60_exceptions.md R251). -/
def usesKey : Instr → Bool
  | .expandKey | .encBlock | .decBlock | .ecbEnc | .ecbDec | .cbcEnc | .cbcDec => true
  | .nop | .pad | .unpad | .gfMul | .subBytes | .invSubBytes | .shiftRows | .invShiftRows
  | .mixColumns | .invMixColumns | .addRoundKey _ => false

/-- Steps 4 and 5 of R251: the message's shape, and the round keys of ADD_ROUND_KEY. -/
def shapeError (i : Instr) (s : State) : Option ErrCode :=
  match i with
  | .encBlock | .decBlock => if s.inLen.toNat ≠ 16 then some .invalidBlockLength else none
  | .ecbDec | .cbcDec =>
    if s.inLen.toNat % 16 ≠ 0 ∨ s.inLen.toNat = 0 then some .invalidCiphertextLength else none
  | .unpad => if s.inLen.toNat = 0 then some .emptyInput else none
  | .addRoundKey _ => if s.status.keyValid = false then some .noRoundKeys else none
  | .nop | .expandKey | .ecbEnc | .cbcEnc | .pad | .gfMul | .subBytes | .invSubBytes | .shiftRows
  | .invShiftRows | .mixColumns | .invMixColumns => none

/-- CheckPreconditions (R251), in its order; none is NONE. A term that is no command of the hardware is
Illegal. -/
def checkPreconditions (i : Instr) (s : State) : Option ErrCode :=
  if i.wellFormed = false then some .illegalCommand
  else if readsIn i = true ∧ bufBytes s < s.inLen.toNat then some .bufferRange
  else if usesKey i = true ∧ s.keyLen ≠ 16 then some .invalidKeyLength
  else shapeError i s

/-- The first part of the store transition (R110): CMD takes the word, and DONE, ERR, ERR_CODE and
PAD_FALLBACK are cleared. WIGN is not changed. -/
def storeWord (w : Word) (s : State) : State := { s with cmd := w, status := s.status.stored }

/-- `raise Error(e)`, the block's trap entry (60_exceptions.md R252): ERR, ERR_CODE and DONE are set, BUSY
is 0, no command is in flight, and nothing else changes. No register saves anything (R254), and the return is the
next store or a W1C write (R255). -/
def raiseError (e : ErrCode) (s : State) : State :=
  { s with status := s.status.failed e, ctl := Controller.idle }

/-- The common part of a completion (R114): BUSY <- 0, DONE <- 1, and the controller is idle again. -/
def finish (s : State) : State := { s with status := s.status.completed, ctl := Controller.idle }

/-- A command from its store to its completion (40_command_control.md R115): the store clears the flags
of R110, the checks of R251 either raise their error at once (R252) or let the command's effect, a function of the state
at the store, be performed by the completion (R114). The core runs this at COMPLETE, where the store has
already happened and its operands still hold their values (20_memory.md R71; log 7). -/
def runLifecycle (i : Instr) (effect : State → State) (s : State) :
    Host.Outcome State Fault Refusal :=
  match checkPreconditions i (storeWord (encode i) s) with
  | some e => .next (raiseError e (storeWord (encode i) s))
  | none => .next (finish (effect (storeWord (encode i) s)))

/-- The interrupt output, a level (60_exceptions.md R262). -/
def State.irq (s : State) : Bool := s.irqEn && s.status.done

/-! ## Reset -/

/-- The reset input is asserted (70_reset_and_hazards.md R280): every register takes its reset value, the
command in flight is abandoned, and the RAMs hold new draws. -/
def assertReset (s : State) : State :=
  { State.resetWith s.bufBlocks with
    inReset := true, inputs := s.inputs, epoch := s.epoch + 1, draws := s.draws }

/-- The reset input is released (R280, R281). -/
def releaseReset (s : State) : State := { s with inReset := false }

end Sys2Proof.Machine
end

