-- ==== Sys2Proof/Machine/GaloisField.lean ====
section
/-! DEFINITION. GF(2^8) arithmetic (41_constants_gf.md R135) and GF_MUL (R137). -/

namespace Sys2Proof.Machine

/-- Shift a left by one bit, and XOR 0x1B where bit 7 was carried out (R135). -/
def gfShift (a : Byte) : Byte := if a.getLsbD 7 then (a <<< 1) ^^^ 0x1B#8 else a <<< 1

/-- The loop of R135: n iterations over the accumulator p and the operands a, b. -/
def gfLoop : Nat → Byte → Byte → Byte → Byte
  | 0, p, _, _ => p
  | n + 1, p, a, b => gfLoop n (if b.getLsbD 0 then p ^^^ a else p) (gfShift a) (b >>> 1)

/-- GF(a, b) (R135): eight iterations. -/
def gfMul (a b : Byte) : Byte := gfLoop 8 0 a b

/-- The completion effect of GF_MUL (R137): x[GF].P <- GF(x[GF].A, x[GF].B). -/
def gfMulEffect (s : State) : State := setProduct (gfMul s.gf.a s.gf.b) s

/-- GF_MUL (R137). -/
def execGfMul (s : State) : Host.Outcome State Fault Refusal :=
  runLifecycle .gfMul gfMulEffect s

end Sys2Proof.Machine
end

