-- ==== Sys2Proof/Machine/RoundPrimitives.lean ====
section
/-! DEFINITION. The round transform primitives (42_round_primitives.md R150 to R156) and the seven diagnostic
commands that apply one of them to STATE (R157 to R163). -/

namespace Sys2Proof.Machine

/-- SubBytes (R150). -/
def subBytes (s : Block) : Block := Vector.ofFn fun i : Fin 16 => sBox s[i.val]

/-- InvSubBytes (R151). -/
def invSubBytes (s : Block) : Block := Vector.ofFn fun i : Fin 16 => invSBox s[i.val]

/-- ShiftRows (R152): t[c*4 + r] <- s[((c + r) mod 4)*4 + r]. -/
def shiftRows (s : Block) : Block :=
  Vector.ofFn fun i : Fin 16 => s[((i.val / 4 + i.val % 4) % 4) * 4 + i.val % 4]'(by omega)

/-- InvShiftRows (R153): t[c*4 + r] <- s[((c - r) mod 4)*4 + r], the remainder non-negative (R18). -/
def invShiftRows (s : Block) : Block :=
  Vector.ofFn fun i : Fin 16 => s[((i.val / 4 + 4 - i.val % 4) % 4) * 4 + i.val % 4]'(by omega)

/-- The dot products of R154: byte i of column c is row i of the matrix times the column. -/
def mixWith (rows : List (List Byte)) (s : Block) : Block :=
  Vector.ofFn fun k : Fin 16 =>
    gfMul (matrixEntry rows (k.val % 4) 0) (s[k.val / 4 * 4 + 0]'(by omega)) ^^^
    gfMul (matrixEntry rows (k.val % 4) 1) (s[k.val / 4 * 4 + 1]'(by omega)) ^^^
    gfMul (matrixEntry rows (k.val % 4) 2) (s[k.val / 4 * 4 + 2]'(by omega)) ^^^
    gfMul (matrixEntry rows (k.val % 4) 3) (s[k.val / 4 * 4 + 3]'(by omega))

/-- MixColumns (R154), with the matrix of R133. -/
def mixColumns (s : Block) : Block := mixWith mixRows s

/-- InvMixColumns (R155), with the matrix of R134. -/
def invMixColumns (s : Block) : Block := mixWith invMixRows s

/-- AddRoundKey (R156). -/
def addRoundKey (s k : Block) : Block := xorBlock s k

/-- The completion effect of a diagnostic command: Bytes16(STATE) <- f(Bytes16(STATE)) (section 2). -/
def stateEffect (f : Block → Block) (s : State) : State := setCipherState (f s.cipherState) s

/-- Round key r as the RK RAM holds it: MemRead(RK, 16*r, 16) (R163; 10_state.md R37). -/
def storedRoundKey (s : State) (r : Nat) : Block := blockOfBytes (memRead s .rk (16 * r) 16)

/-- The completion effect of ADD_ROUND_KEY r (R163). -/
def addRoundKeyEffect (r : Nat) (s : State) : State :=
  setCipherState (addRoundKey s.cipherState (storedRoundKey s r)) s

/-- SUB_BYTES (R157). -/
def execSubBytes (s : State) : Host.Outcome State Fault Refusal :=
  runLifecycle .subBytes (stateEffect subBytes) s

/-- INV_SUB_BYTES (R158). -/
def execInvSubBytes (s : State) : Host.Outcome State Fault Refusal :=
  runLifecycle .invSubBytes (stateEffect invSubBytes) s

/-- SHIFT_ROWS (R159). -/
def execShiftRows (s : State) : Host.Outcome State Fault Refusal :=
  runLifecycle .shiftRows (stateEffect shiftRows) s

/-- INV_SHIFT_ROWS (R160). -/
def execInvShiftRows (s : State) : Host.Outcome State Fault Refusal :=
  runLifecycle .invShiftRows (stateEffect invShiftRows) s

/-- MIX_COLUMNS (R161). -/
def execMixColumns (s : State) : Host.Outcome State Fault Refusal :=
  runLifecycle .mixColumns (stateEffect mixColumns) s

/-- INV_MIX_COLUMNS (R162). -/
def execInvMixColumns (s : State) : Host.Outcome State Fault Refusal :=
  runLifecycle .invMixColumns (stateEffect invMixColumns) s

/-- ADD_ROUND_KEY r (R163): code 4 where r is in 11..15, code 5 where KEY_VALID = 0. -/
def execAddRoundKey (round : BitVec 4) (s : State) : Host.Outcome State Fault Refusal :=
  runLifecycle (.addRoundKey round) (addRoundKeyEffect round.toNat) s

end Sys2Proof.Machine
end

