-- ==== Sys2Proof/Machine/KeySchedule.lean ====
section
/-! DEFINITION. The key schedule expander (43_key_schedule.md R170) and EXPAND_KEY (R174). -/

namespace Sys2Proof.Machine

/-- Word i of a schedule: its bytes [4i, 4i+4) (20_memory.md R62). -/
def scheduleWord (w : Bytes) (i : Nat) : KeyWord :=
  Vector.ofFn fun j : Fin 4 => w.getD (4 * i + j.val) 0

/-- Rotate a word left by one byte (R170). -/
def rotWord (t : KeyWord) : KeyWord := #v[t[1], t[2], t[3], t[0]]

/-- Substitute each byte of a word through the S-box (R170). -/
def subWord (t : KeyWord) : KeyWord := #v[sBox t[0], sBox t[1], sBox t[2], sBox t[3]]

/-- XOR a word's first byte with a round constant (R170). -/
def addRcon (c : Byte) (t : KeyWord) : KeyWord := #v[t[0] ^^^ c, t[1], t[2], t[3]]

/-- The byte-wise XOR of two words (R170). -/
def xorWord (t u : KeyWord) : KeyWord := #v[t[0] ^^^ u[0], t[1] ^^^ u[1], t[2] ^^^ u[2], t[3] ^^^ u[3]]

/-- The previous word of word i as R170 transforms it: rotated, substituted and XORed with Rcon(i/4)
where i is a multiple of 4, as it is otherwise. -/
def scheduleTemp (i : Nat) (t : KeyWord) : KeyWord :=
  if i % 4 = 0 then addRcon (rcon (i / 4)) (subWord (rotWord t)) else t

/-- A schedule with its next word appended (R170): the transformed previous word XOR the word four
positions earlier. -/
def appendWord (w : Bytes) : Bytes :=
  let i := w.length / 4
  w ++ (xorWord (scheduleTemp i (scheduleWord w (i - 1))) (scheduleWord w (i - 4))).toList

/-- A schedule with n more words. -/
def appendWords : Nat → Bytes → Bytes
  | 0, w => w
  | n + 1, w => appendWords n (appendWord w)

/-- KeyExpansion (R170): the key's four words, then words 4..43. -/
def keyExpansion (key : Block) : Bytes := appendWords 40 (blockBytes key)

/-- RoundKey(rk, r) = rk[16r : 16r+16) (R170). -/
def roundKey (rk : Bytes) (r : Nat) : Block := blockOfBytes (slice rk (16 * r) 16)

/-- The completion effect of EXPAND_KEY (R174). -/
def expandKeyEffect (s : State) : State := writeSchedule (keyExpansion s.key) s

/-- EXPAND_KEY (R174): code 1 where KEY_LEN is not 16. -/
def execExpandKey (s : State) : Host.Outcome State Fault Refusal :=
  runLifecycle .expandKey expandKeyEffect s

end Sys2Proof.Machine
end

