-- ==== Sys2Proof/Machine/BlockCipher.lean ====
section
/-! DEFINITION. The block cipher (44_block_cipher.md R190, R191) and its commands ENC_BLOCK (R196) and
DEC_BLOCK (R197). -/

namespace Sys2Proof.Machine

/-- One of rounds 1..9 of R190. -/
def encRound (k s : Block) : Block := addRoundKey (mixColumns (shiftRows (subBytes s))) k

/-- Round 10 of R190, which omits MixColumns. -/
def encFinal (k s : Block) : Block := addRoundKey (shiftRows (subBytes s)) k

/-- n rounds of R190, the first with round key r. -/
def encRounds (rk : Bytes) : Nat → Nat → Block → Block
  | 0, _, s => s
  | n + 1, r, s => encRounds rk n (r + 1) (encRound (roundKey rk r) s)

/-- Cipher (R190): round key 0, rounds 1..9, round 10. -/
def cipher (block : Block) (rk : Bytes) : Block :=
  encFinal (roundKey rk 10) (encRounds rk 9 1 (addRoundKey block (roundKey rk 0)))

/-- One of rounds 9..1 of R191. -/
def decRound (k s : Block) : Block := invMixColumns (addRoundKey (invSubBytes (invShiftRows s)) k)

/-- The final step of R191, which omits InvMixColumns. -/
def decFinal (k s : Block) : Block := addRoundKey (invSubBytes (invShiftRows s)) k

/-- The rounds of R191 with round keys r, r-1, ..., 1. -/
def decRounds (rk : Bytes) : Nat → Block → Block
  | 0, s => s
  | r + 1, s => decRounds rk r (decRound (roundKey rk (r + 1)) s)

/-- InvCipher (R191): round key 10, rounds 9..1, the final step with round key 0. -/
def invCipher (block : Block) (rk : Bytes) : Block :=
  decFinal (roundKey rk 0) (decRounds rk 9 (addRoundKey block (roundKey rk 10)))

/-- The completion effect of R196 and R197: the block's result goes to OUT and STATE. -/
def blockEffect (f : Block → Bytes → Block) (s : State) : State :=
  let rk := keyExpansion s.key
  let c := f (blockOfBytes (memRead s .inBuf 0 16)) rk
  setCipherState c (writeOutput (blockBytes c) 16 (writeSchedule rk s))

/-- ENC_BLOCK (R196): codes 6, 1, 2 in that order. -/
def execEncBlock (s : State) : Host.Outcome State Fault Refusal :=
  runLifecycle .encBlock (blockEffect cipher) s

/-- DEC_BLOCK (R197): codes 6, 1, 2 in that order. -/
def execDecBlock (s : State) : Host.Outcome State Fault Refusal :=
  runLifecycle .decBlock (blockEffect invCipher) s

end Sys2Proof.Machine
end

