-- ==== Sys2Proof/Machine/Padding.lean ====
section
/-! DEFINITION. The padding engine (45_padding.md R210 to R212) and its commands PAD (R214) and UNPAD (R215). -/

namespace Sys2Proof.Machine

/-- The count of R210: 16 - (len(d) mod 16), in 1..16. -/
def padCount (d : Bytes) : Nat := 16 - d.length % 16

/-- Pad (R210). -/
def padBytes (d : Bytes) : Bytes := d ++ List.replicate (padCount d) (BitVec.ofNat 8 (padCount d))

/-- The count the unpad step reads: the last byte, whatever its value (R211, R213). -/
def unpadCount (d : Bytes) : Nat := (d.getLastD 0).toNat

/-- UnpadRaw (R211): empty where n = 0 or n is not below the length. -/
def unpadRaw (d : Bytes) : Bytes :=
  if 1 ≤ unpadCount d ∧ unpadCount d < d.length then d.take (d.length - unpadCount d) else []

/-- UnpadGuard (R212): the stripped data, or all of it with the fallback flag. -/
def unpadGuard (d : Bytes) : Bytes × Bool :=
  if 1 ≤ unpadCount d ∧ unpadCount d < d.length then (d.take (d.length - unpadCount d), false)
  else (d, true)

/-- The completion effect of PAD (R214). -/
def padEffect (s : State) : State :=
  let p := padBytes (inBytes s)
  writeOutput p p.length s

/-- The completion effect of UNPAD (R215): all of the input is copied, OUT_LEN selects the result. -/
def unpadEffect (s : State) : State :=
  let d := inBytes s
  let r := unpadGuard d
  setPadFallback r.2 (writeOutput d r.1.length s)

/-- PAD (R214): code 6 where IN_LEN is above BUF_BYTES. -/
def execPad (s : State) : Host.Outcome State Fault Refusal :=
  runLifecycle .pad padEffect s

/-- UNPAD (R215): code 6, then code 7 where IN_LEN is 0. -/
def execUnpad (s : State) : Host.Outcome State Fault Refusal :=
  runLifecycle .unpad unpadEffect s

end Sys2Proof.Machine
end

