-- ==== Sys2Proof/Machine/Modes.lean ====
section
/-! DEFINITION. The ECB and CBC mode controllers (46_modes.md R230 to R236): ECB_ENC, ECB_DEC, CBC_ENC, CBC_DEC. -/

namespace Sys2Proof.Machine

/-- Prep (R230): only a message that is not block-aligned is padded. -/
def prepare (m : Bytes) : Bytes := if m.length % 16 ≠ 0 then padBytes m else m

/-- The first n blocks of a sequence (R230). -/
def takeBlocks : Nat → Bytes → List Block
  | 0, _ => []
  | n + 1, d => blockOfBytes (d.take 16) :: takeBlocks n (d.drop 16)

/-- Blocks(d) (R230): len(d)/16 blocks in order. -/
def blocks (d : Bytes) : List Block := takeBlocks (d.length / 16) d

/-- The bytes of blocks, concatenated in order (20_memory.md R62). -/
def joinBlocks (bs : List Block) : Bytes := bs.flatMap blockBytes

/-- The last 16 bytes of a sequence: d[len-16 : len) (R231). -/
def lastBlock (d : Bytes) : Block := blockOfBytes (slice d (d.length - 16) 16)

/-- ECB encryption of a prepared message (R231). -/
def ecbEncBytes (d rk : Bytes) : Bytes := joinBlocks ((blocks d).map fun b => cipher b rk)

/-- ECB decryption before the unpad step (R232). -/
def ecbDecBytes (c rk : Bytes) : Bytes := joinBlocks ((blocks c).map fun b => invCipher b rk)

/-- CBC encryption of blocks from a chaining value (R233): the ciphertext blocks and the final `previous`. -/
def cbcEncBlocks (rk : Bytes) : Block → List Block → List Block × Block
  | previous, [] => ([], previous)
  | previous, p :: ps =>
    let c := cipher (xorBlock p previous) rk
    let rest := cbcEncBlocks rk c ps
    (c :: rest.1, rest.2)

/-- CbcEnc (R233). -/
def cbcEncBytes (d rk : Bytes) (iv : Block) : Bytes × Block :=
  let r := cbcEncBlocks rk iv (blocks d)
  (joinBlocks r.1, r.2)

/-- CBC decryption of blocks from a chaining value (R235): the plaintext blocks and the final `previous`. -/
def cbcDecBlocks (rk : Bytes) : Block → List Block → List Block × Block
  | previous, [] => ([], previous)
  | previous, c :: cs =>
    let rest := cbcDecBlocks rk c cs
    (xorBlock (invCipher c rk) previous :: rest.1, rest.2)

/-- CbcDec (R235), its plaintext bytes and `previous`. -/
def cbcDecBytes (c rk : Bytes) (iv : Block) : Bytes × Block :=
  let r := cbcDecBlocks rk iv (blocks c)
  (joinBlocks r.1, r.2)

/-- CbcDec's `last` (R235): the last block's InvCipher output. A ciphertext with no block, which code 3
shuts out, has none; the function then answers the InvCipher of zeros (log 25). -/
def cbcDecLast (c rk : Bytes) : Block := invCipher (lastBlock c) rk

/-- STATE takes the last 16 bytes of an encryption's output, where there is a block (R231, R234). -/
def setStateToLast (c : Bytes) (s : State) : State :=
  if 0 < c.length then setCipherState (lastBlock c) s else s

/-- The completion effect of ECB_ENC (R231). -/
def ecbEncEffect (s : State) : State :=
  let rk := keyExpansion s.key
  let c := ecbEncBytes (prepare (inBytes s)) rk
  setStateToLast c (writeOutput c c.length (writeSchedule rk s))

/-- The completion effect of ECB_DEC (R232). -/
def ecbDecEffect (s : State) : State :=
  let rk := keyExpansion s.key
  let p := ecbDecBytes (inBytes s) rk
  let r := unpadGuard p
  setCipherState (lastBlock p)
    (setPadFallback r.2 (writeOutput p r.1.length (writeSchedule rk s)))

/-- The completion effect of CBC_ENC (R234). -/
def cbcEncEffect (s : State) : State :=
  let rk := keyExpansion s.key
  let c := cbcEncBytes (prepare (inBytes s)) rk s.iv
  setStateToLast c.1 (setChain c.2 (writeOutput c.1 c.1.length (writeSchedule rk s)))

/-- The completion effect of CBC_DEC (R236). -/
def cbcDecEffect (s : State) : State :=
  let rk := keyExpansion s.key
  let p := cbcDecBytes (inBytes s) rk s.iv
  let r := unpadGuard p.1
  setCipherState (cbcDecLast (inBytes s) rk)
    (setChain p.2 (setPadFallback r.2 (writeOutput p.1 r.1.length (writeSchedule rk s))))

/-- ECB_ENC (R231): code 6, then code 1. -/
def execEcbEnc (s : State) : Host.Outcome State Fault Refusal :=
  runLifecycle .ecbEnc ecbEncEffect s

/-- ECB_DEC (R232): codes 6, 1, 3 in that order. -/
def execEcbDec (s : State) : Host.Outcome State Fault Refusal :=
  runLifecycle .ecbDec ecbDecEffect s

/-- CBC_ENC (R234): code 6, then code 1. -/
def execCbcEnc (s : State) : Host.Outcome State Fault Refusal :=
  runLifecycle .cbcEnc cbcEncEffect s

/-- CBC_DEC (R236): codes 6, 1, 3 in that order. -/
def execCbcDec (s : State) : Host.Outcome State Fault Refusal :=
  runLifecycle .cbcDec cbcDecEffect s

end Sys2Proof.Machine
end

