-- ==== Sys2Proof/Machine/Controller.lean ====
section
/-! DEFINITION. The hidden controller: acceptance (40_command_control.md R112) and the phase sequences of
44_block_cipher.md R194, R195 and 46_modes.md R230, one phase step per clock. A phase step changes hidden state only; the
completion (R114) is exec's. What the spec leaves open of the phases is log 8. -/

namespace Sys2Proof.Machine

/-- What a command does with the datapath while it executes. -/
inductive Engine where
  /-- One completion step and nothing else (70_reset_and_hazards.md R286, the first row). -/
  | single
  /-- The key expander alone (EXPAND_KEY). -/
  | schedule
  /-- Blocks through Cipher (R194). -/
  | encipher
  /-- Blocks through InvCipher (R195). -/
  | decipher
  /-- Blocks copied from IN to OUT (PAD, UNPAD). -/
  | copy
  deriving DecidableEq, Repr

/-- The engine a command runs on. -/
def engine : Instr → Engine
  | .expandKey => .schedule
  | .encBlock | .ecbEnc | .cbcEnc => .encipher
  | .decBlock | .ecbDec | .cbcDec => .decipher
  | .pad | .unpad => .copy
  | .nop | .gfMul | .subBytes | .invSubBytes | .shiftRows | .invShiftRows | .mixColumns
  | .invMixColumns | .addRoundKey _ => .single

/-- The commands whose completion takes an unpad step (70_reset_and_hazards.md R286). -/
def unpads : Instr → Bool
  | .ecbDec | .cbcDec | .unpad => true
  | .nop | .expandKey | .encBlock | .decBlock | .ecbEnc | .cbcEnc | .pad | .gfMul | .subBytes
  | .invSubBytes | .shiftRows | .invShiftRows | .mixColumns | .invMixColumns
  | .addRoundKey _ => false

/-- The bytes a command's blocks are taken from, with the padding that the LOAD phase of the last block
completes (46_modes.md R230). -/
def blockInput (i : Instr) (s : State) : Bytes :=
  match i with
  | .ecbEnc | .cbcEnc => prepare (inBytes s)
  | .pad => padBytes (inBytes s)
  | .encBlock | .decBlock | .ecbDec | .cbcDec | .unpad => inBytes s
  | .nop | .expandKey | .gfMul | .subBytes | .invSubBytes | .shiftRows | .invShiftRows
  | .mixColumns | .invMixColumns | .addRoundKey _ => []

/-- The number of blocks a command processes, a last short one included. -/
def blockCount (i : Instr) (s : State) : Nat := ((blockInput i s).length + 15) / 16

/-- The bytes of input block b. -/
def inputBlockBytes (i : Instr) (s : State) (b : Nat) : Bytes := slice (blockInput i s) (16 * b) 16

/-- After the last block: the unpad step where the command has one, else the completion. That rnd is 0 at
UNPAD and COMPLETE is the model's choice (log 8). -/
def afterBlocks (i : Instr) (c : Controller) : Controller :=
  { c with phase := if unpads i = true then .unpad else .complete, rnd := 0 }

/-- The next block's first phase, or what follows the last block. PAD and UNPAD move a block from IN to
OUT in one STORE step, and rnd is 0 at LOAD, which R194 and R195 leave open (log 8). -/
def nextBlock (i : Instr) (s : State) (c : Controller) : Controller :=
  if c.blk < blockCount i s then
    { c with phase := if engine i = .copy then .store else .load, rnd := 0 }
  else afterBlocks i c

/-- The key expansion's first step comes next, from the key's own four words (43_key_schedule.md R170). -/
def startExpansion (s : State) (c : Controller) : Controller :=
  { c with phase := .keyexp, rnd := 1, sched := blockBytes s.key }

/-- The phase ACCEPT is left within the store transition: KEYEXP where a key has to be expanded (always for
EXPAND_KEY, R286; skipped when KEY_VALID = 1 otherwise, 43_key_schedule.md R173), else the first block, else the
completion. -/
def leaveAccept (i : Instr) (s : State) (c : Controller) : Controller :=
  match engine i with
  | .single => { c with phase := .complete }
  | .schedule => startExpansion s c
  | .copy => nextBlock i s c
  | .encipher | .decipher =>
    if s.status.keyValid = true then nextBlock i s { c with sched := memRead s .rk 0 176 }
    else startExpansion s c

/-- The chaining value a command starts from: `previous = iv` in CBC (46_modes.md R233, R235). That it is 0 in
every other command is the model's choice (log 26): no rule gives it. -/
def firstPrevious (i : Instr) (s : State) : Block :=
  match i with
  | .cbcEnc | .cbcDec => s.iv
  | .nop | .expandKey | .encBlock | .decBlock | .ecbEnc | .ecbDec | .pad | .unpad | .gfMul
  | .subBytes | .invSubBytes | .shiftRows | .invShiftRows | .mixColumns | .invMixColumns
  | .addRoundKey _ => Controller.idle.prev

/-- Accept(c) (40_command_control.md R112): BUSY <- 1 and the core begins to execute the stored word. The other
hidden values begin as at IDLE, the working state as 0 until the first LOAD: the model's choice (log 26). -/
def acceptCommand (i : Instr) (s : State) : State :=
  { s with
    status := s.status.accepted
    ctl := leaveAccept i s
      { Controller.idle with phase := .accept, word := s.cmd, prev := firstPrevious i s } }

/-- KEYEXP with rnd = r: the next round key is produced (43_key_schedule.md R171). That rnd is 0 at COMPLETE is
the model's choice (log 8). -/
def keyexpStep (i : Instr) (s : State) (c : Controller) : Controller :=
  let c' := { c with sched := appendWords 4 c.sched }
  if c.rnd < 10 then { c' with rnd := c.rnd + 1 }
  else if engine i = .schedule then { c' with phase := .complete, rnd := 0 }
  else nextBlock i s c'

/-- LOAD: working state <- the input block (R194), XORed with `previous` in CBC encryption (46_modes.md
R233). INIT keeps LOAD's rnd, 0 (log 8). -/
def loadStep (i : Instr) (s : State) (c : Controller) : Controller :=
  let b := blockOfBytes (inputBlockBytes i s c.blk)
  { c with phase := .init, work := if i = .cbcEnc then xorBlock b c.prev else b }

/-- INIT: AddRoundKey with round key 0 (R194), or 10 when deciphering (R195). -/
def initStep (i : Instr) (c : Controller) : Controller :=
  if engine i = .decipher then
    { c with phase := .round, rnd := 9, work := addRoundKey c.work (roundKey c.sched 10) }
  else { c with phase := .round, rnd := 1, work := addRoundKey c.work (roundKey c.sched 0) }

/-- ROUND: one round with round key rnd, upwards 1..9 (R194) or downwards 9..1 (R195). FINAL follows with rnd = 10
when enciphering (R194); that it follows with rnd = 0 when deciphering is the model's choice, since R195 gives FINAL no rnd
(log 8). -/
def roundStep (i : Instr) (c : Controller) : Controller :=
  if engine i = .decipher then
    let c' := { c with work := decRound (roundKey c.sched c.rnd) c.work }
    if 1 < c.rnd then { c' with rnd := c.rnd - 1 } else { c' with phase := .final, rnd := 0 }
  else
    let c' := { c with work := encRound (roundKey c.sched c.rnd) c.work }
    if c.rnd < 9 then { c' with rnd := c.rnd + 1 } else { c' with phase := .final, rnd := 10 }

/-- FINAL: the last round, with round key 10 (R194) or 0 (R195). That STORE keeps FINAL's rnd is the model's
choice (log 8). -/
def finalStep (i : Instr) (c : Controller) : Controller :=
  if engine i = .decipher then
    { c with phase := .store, work := decFinal (roundKey c.sched 0) c.work }
  else { c with phase := .store, work := encFinal (roundKey c.sched 10) c.work }

/-- The bytes STORE puts out for the current block: the working state, XORed with `previous` in CBC
decryption (46_modes.md R235), or the input block itself for PAD and UNPAD. -/
def storedBytes (i : Instr) (s : State) (c : Controller) : Bytes :=
  if engine i = .copy then inputBlockBytes i s c.blk
  else if i = .cbcDec then blockBytes (xorBlock c.work c.prev)
  else blockBytes c.work

/-- `previous` after a block: the ciphertext block in CBC (46_modes.md R233, R235). That it stays as it is, 0, in
every other command is the model's choice (log 26). -/
def nextPrevious (i : Instr) (s : State) (c : Controller) : Block :=
  if i = .cbcEnc then c.work
  else if i = .cbcDec then blockOfBytes (inputBlockBytes i s c.blk)
  else c.prev

/-- STORE: the block's result goes out, the counters advance, and the next block begins. That the block counter
and the running length advance here, and that the working state keeps its value, is the model's choice (log 26). -/
def storeStep (i : Instr) (s : State) (c : Controller) : Controller :=
  nextBlock i s
    { c with
      out := c.out ++ storedBytes i s c
      runLen := c.runLen + (storedBytes i s c).length
      prev := nextPrevious i s c
      blk := c.blk + 1 }

/-- UNPAD: the running length becomes that of the guarded unpad of the output (45_padding.md R212); that the hidden
length takes it at this step is the model's choice (log 26). -/
def unpadStep (c : Controller) : Controller :=
  { c with phase := .complete, runLen := (unpadGuard c.out).1.length }

/-- One phase step of an executing command. IDLE and COMPLETE are not steps of the controller itself;
ACCEPT is left within the store transition. -/
def advance (i : Instr) (s : State) : Controller :=
  match s.ctl.phase with
  | .idle => s.ctl
  | .accept => leaveAccept i s s.ctl
  | .keyexp => keyexpStep i s s.ctl
  | .load => loadStep i s s.ctl
  | .init => initStep i s.ctl
  | .round => roundStep i s.ctl
  | .final => finalStep i s.ctl
  | .store => storeStep i s s.ctl
  | .unpad => unpadStep s.ctl
  | .complete => s.ctl

/-- The core's clock. At IDLE nothing happens (60_exceptions.md R275), and neither does during reset. At
COMPLETE the captured command completes, by `run`; at any other phase the controller takes one step. A captured word that
is no command, which no store captures, is reported as R252 reports it. -/
def clockStep (run : Instr → State → Host.Outcome State Fault Refusal) (s : State) :
    Host.Outcome State Fault Refusal :=
  if s.inReset = true then .next s
  else
    match s.ctl.phase with
    | .idle => .next s
    | .complete =>
      match decode s.ctl.word with
      | .command i => run i s
      | .illegal _ => .next (raiseError .illegalCommand s)
    | .accept | .keyexp | .load | .init | .round | .final | .store | .unpad =>
      match decode s.ctl.word with
      | .command i => .next { s with ctl := advance i s }
      | .illegal _ => .next (raiseError .illegalCommand s)

/-- The clocks from store to completion of an accepted command: the informative table of
70_reset_and_hazards.md R286, with K = 10 where a key has to be expanded and B the number of blocks. -/
def cycleCount (i : Instr) (s : State) : Nat :=
  match engine i with
  | .single => 1
  | .schedule => 10 + 1
  | .copy => blockCount i s + (if unpads i = true then 2 else 1)
  | .encipher | .decipher =>
    (if s.status.keyValid = true then 0 else 10) + 13 * blockCount i s +
      (if unpads i = true then 2 else 1)

end Sys2Proof.Machine
end

