-- ==== Sys2Proof/Machine/RegisterMap.lean ====
section
/-! DEFINITION. The register map (10_state.md section 2, R21 to R42): which register an offset selects, the value a
register reads, and which of its bits are unspecified while BUSY = 1 (R48). -/

namespace Sys2Proof.Machine

/-- The registers and windows of the map. The window constructors carry the word's index in the window. -/
inductive Reg where
  | id
  | param
  | ctrl
  | cmd
  | status
  | keyLen
  | inLen
  | outLen
  | gf
  | key (k : Fin 4)
  | iv (k : Fin 4)
  | state (k : Fin 4)
  | chain (k : Fin 4)
  | rk (k : Fin 44)
  | sbox (k : Fin 64)
  | invSbox (k : Fin 64)
  | rcon (k : Fin 16)
  | inWindow (k : Nat)
  | outWindow (k : Nat)
  | reserved
  deriving DecidableEq, Repr

/-- The register at an aligned offset (the table of section 2; every other offset is reserved, R42). -/
def regAt (a : Nat) : Reg :=
  if a = 0x00000 then .id
  else if a = 0x00004 then .param
  else if a = 0x00008 then .ctrl
  else if a = 0x0000C then .cmd
  else if a = 0x00010 then .status
  else if a = 0x00014 then .keyLen
  else if a = 0x00018 then .inLen
  else if a = 0x0001C then .outLen
  else if a = 0x00020 then .gf
  else if 0x00030 ≤ a ∧ a < 0x00040 then .key (Fin.ofNat 4 ((a - 0x00030) / 4))
  else if 0x00040 ≤ a ∧ a < 0x00050 then .iv (Fin.ofNat 4 ((a - 0x00040) / 4))
  else if 0x00050 ≤ a ∧ a < 0x00060 then .state (Fin.ofNat 4 ((a - 0x00050) / 4))
  else if 0x00060 ≤ a ∧ a < 0x00070 then .chain (Fin.ofNat 4 ((a - 0x00060) / 4))
  else if 0x00100 ≤ a ∧ a < 0x001B0 then .rk (Fin.ofNat 44 ((a - 0x00100) / 4))
  else if 0x00400 ≤ a ∧ a < 0x00500 then .sbox (Fin.ofNat 64 ((a - 0x00400) / 4))
  else if 0x00500 ≤ a ∧ a < 0x00600 then .invSbox (Fin.ofNat 64 ((a - 0x00500) / 4))
  else if 0x00600 ≤ a ∧ a < 0x00640 then .rcon (Fin.ofNat 16 ((a - 0x00600) / 4))
  else if 0x10000 ≤ a ∧ a < 0x20000 then .inWindow ((a - 0x10000) / 4)
  else if 0x20000 ≤ a ∧ a < 0x30000 then .outWindow ((a - 0x20000) / 4)
  else .reserved

/-- Word k of a RAM space, little-endian (20_memory.md R61; 10_state.md R37, R39, R40). -/
def ramWord (s : State) (sp : Space) (k : Nat) : Word :=
  packWord (byteAt s (sp.base + 4 * k)) (byteAt s (sp.base + 4 * k + 1))
    (byteAt s (sp.base + 4 * k + 2)) (byteAt s (sp.base + 4 * k + 3))

/-- The word of the GF register (R38); bits [31:24] read 0. -/
def GfReg.toWord (g : GfReg) : Word :=
  g.a.zeroExtend 32 ||| (g.b.zeroExtend 32 <<< 8) ||| (g.p.zeroExtend 32 <<< 16)

/-- The value a register holds, as a read returns it while BUSY = 0. -/
def regValue (s : State) : Reg → Word
  | .id => Config.idValue
  | .param => BitVec.ofNat 32 (bufBytes s)
  | .ctrl => flagBit s.irqEn 0
  | .cmd => s.cmd
  | .status => s.status.toWord
  | .keyLen => s.keyLen.zeroExtend 32
  | .inLen => s.inLen
  | .outLen => s.outLen
  | .gf => s.gf.toWord
  | .key k => blockWord s.key k
  | .iv k => blockWord s.iv k
  | .state k => blockWord s.cipherState k
  | .chain k => blockWord s.chain k
  | .rk k => ramWord s .rk k.val
  | .sbox k =>
    packWord (sBox (BitVec.ofNat 8 (4 * k.val))) (sBox (BitVec.ofNat 8 (4 * k.val + 1)))
      (sBox (BitVec.ofNat 8 (4 * k.val + 2))) (sBox (BitVec.ofNat 8 (4 * k.val + 3)))
  | .invSbox k =>
    packWord (invSBox (BitVec.ofNat 8 (4 * k.val))) (invSBox (BitVec.ofNat 8 (4 * k.val + 1)))
      (invSBox (BitVec.ofNat 8 (4 * k.val + 2))) (invSBox (BitVec.ofNat 8 (4 * k.val + 3)))
  | .rcon k => (rcon k.val).zeroExtend 32
  | .inWindow k => if 4 * k < bufBytes s then ramWord s .inBuf k else 0
  | .outWindow k => if 4 * k < bufBytes s + 16 then ramWord s .outBuf k else 0
  | .reserved => 0

/-- The bits of a register that a read while BUSY = 1 leaves unspecified (R48): KEY_VALID, OUT_LEN, GF.P,
STATE, CHAIN, the RK RAM and the OUT buffer. A word beyond the OUT buffer stays RAZ (R40; log 21). -/
def drawMask (s : State) : Reg → Word
  | .status => 0x00000008
  | .gf => 0x00FF0000
  | .outLen | .state _ | .chain _ | .rk _ => 0xFFFFFFFF
  | .outWindow k => if 4 * k < bufBytes s + 16 then 0xFFFFFFFF else 0
  | .id | .param | .ctrl | .cmd | .keyLen | .inLen | .key _ | .iv _ | .sbox _ | .invSbox _
  | .rcon _ | .inWindow _ | .reserved => 0

/-- The bits of this read that are unspecified: none while BUSY = 0. -/
def unspecifiedBits (s : State) (r : Reg) : Word := if s.status.busy = true then drawMask s r else 0

/-- What a read of a register returns: its value, with the unspecified bits from the next draw (R48;
log 5). -/
def readReg (s : State) (r : Reg) : Word :=
  if unspecifiedBits s r = 0 then regValue s r
  else
    (regValue s r &&& ~~~ unspecifiedBits s r) |||
      (Config.busyDraw s.draws &&& unspecifiedBits s r)

end Sys2Proof.Machine
end

