-- ==== Sys2Proof/Machine/Bus.lean ====
section
/-! DEFINITION. The bus transactions (20_memory.md R60 to R67): reads, writes with their side effects, the store of a
command word (40_command_control.md R110), and the service of one event from outside. -/

namespace Sys2Proof.Machine

/-- off[1:0] = 0 (R64). -/
def aligned (off : Offset) : Bool := decide (off.toNat % 4 = 0)

/-- A write to CMD while BUSY = 0 (40_command_control.md R110): store, decode, check, then an error
completion (60_exceptions.md R252) or the acceptance (R112). -/
def storeCommand (w : Word) (s : State) : State :=
  match decode w with
  | .illegal _ => raiseError .illegalCommand (storeWord w s)
  | .command i =>
    match checkPreconditions i (storeWord w s) with
    | some e => raiseError e (storeWord w s)
    | none => acceptCommand i (storeWord w s)

/-- An aligned write while BUSY = 0 (10_state.md R21 to R42). Read-only registers, the OUT and ROM windows,
the words beyond IN and the reserved offsets ignore it (20_memory.md R67). -/
def writeReg (r : Reg) (d : Word) (s : State) : State :=
  match r with
  | .ctrl => { s with irqEn := d.getLsbD 0 }
  | .cmd => storeCommand d s
  | .status => { s with status := s.status.w1c d }
  | .keyLen => { s with keyLen := wordByte d 0, status := s.status.keyChanged }
  | .inLen => { s with inLen := d }
  | .gf => { s with gf := { s.gf with a := wordByte d 0, b := wordByte d 1 } }
  | .key k => { s with key := setBlockWord s.key k d, status := s.status.keyChanged }
  | .iv k => { s with iv := setBlockWord s.iv k d }
  | .state k => { s with cipherState := setBlockWord s.cipherState k d }
  | .inWindow k => if 4 * k < bufBytes s then memWrite .inBuf (4 * k) (wordBytes d) s else s
  | .id | .param | .outLen | .chain _ | .rk _ | .sbox _ | .invSbox _ | .rcon _ | .outWindow _
  | .reserved => s

/-- A read during reset: no effect, and any reply (70_reset_and_hazards.md R280; log 6). -/
def resetRead (s : State) : State :=
  { s with
    reply := some (.read (Config.resetDataDraw s.draws)
      (if Config.resetErrorDraw s.draws then .error else .ok))
    draws := s.draws + 1 }

/-- A write during reset: no effect, and any response (R280; log 6). -/
def resetWrite (s : State) : State :=
  { s with
    reply := some (.write (if Config.resetErrorDraw s.draws then .error else .ok))
    draws := s.draws + 1 }

/-- Read(off) (R60, R64, R67): no state of the block changes. A read with unspecified bits takes a draw,
which the counter records. -/
def busRead (off : Offset) (s : State) : State :=
  if s.inReset = true then resetRead s
  else if aligned off = false then { s with reply := some (.read 0 .error) }
  else
    { s with
      reply := some (.read (readReg s (regAt off.toNat)) .ok)
      draws := if unspecifiedBits s (regAt off.toNat) = 0 then s.draws else s.draws + 1 }

/-- Write(off, data) (R60, R64, R66, R67): a write while BUSY = 1 is ignored and sets WIGN. -/
def busWrite (off : Offset) (d : Word) (s : State) : State :=
  if s.inReset = true then resetWrite s
  else if aligned off = false then { s with reply := some (.write .error) }
  else if s.status.busy = true then
    { s with status := s.status.writeIgnored, reply := some (.write .ok) }
  else { writeReg (regAt off.toNat) d s with reply := some (.write .ok) }

/-- One event from outside; `run` performs the completion of a command. -/
def serveEvent (run : Instr → State → Host.Outcome State Fault Refusal) (e : BusEvent) (s : State) :
    Host.Outcome State Fault Refusal :=
  match e with
  | .read off => .next (busRead off s)
  | .write off d => .next (busWrite off d s)
  | .clock => clockStep run s
  | .assertReset => .next (assertReset s)
  | .releaseReset => .next (releaseReset s)

end Sys2Proof.Machine
end

