-- ==== Sys2Proof/Machine/Control.lean ====
section
/-! DEFINITION. Control family: NOP (40_command_control.md R116). -/

namespace Sys2Proof.Machine

/-- NOP (R116): no state other than CMD and STATUS changes. -/
def execNop (s : State) : Host.Outcome State Fault Refusal :=
  runLifecycle .nop (fun t => t) s

end Sys2Proof.Machine
end

