-- ==== Sys2Proof/Machine/Step.lean ====
section
/-! DEFINITION. One step of the machine: the next event of the order of 20_memory.md R70, with exec performing a
command's completion. -/

namespace Sys2Proof.Machine

/-- The oldest event from outside is served; where none is left, the core's clock goes on. -/
def step (s : State) : Host.Outcome State Fault Refusal :=
  match s.inputs with
  | [] => clockStep exec s
  | e :: rest => serveEvent exec e { s with inputs := rest }

/-- The state in which the word `w` has been stored into CMD and captured, and the core's next clock
completes it (log 11): CMD and STATUS as the store and the acceptance leave them (40_command_control.md R110, R112), the
controller at COMPLETE, the reset input released, and the clock as the next event. -/
def State.withFetchWord (s : State) (nbits w : Nat) : State :=
  let word := BitVec.ofNat 32 (w % 2 ^ nbits)
  { s with
    cmd := word
    status := s.status.stored.accepted
    ctl := { Controller.idle with phase := .complete, word := word }
    inReset := false
    inputs := .clock :: s.inputs }

end Sys2Proof.Machine
end

