-- ==== Sys2Proof/Machine/HostProgram.lean ====
section
/-! DEFINITION. The host-program notation of 30_encoding.md R99 to R101, as the bus transactions its lines expand to.
The loop of a BNE runs in the host, outside the block; here it appears once, as R101 says. -/

namespace Sys2Proof.Machine

/-- A line of a host program (R99). -/
inductive HostLine where
  /-- `WR off, v`. -/
  | wr (off : Offset) (v : Word)
  /-- `RD off`, with the value the program claims where it states one (`RD off -> v`). -/
  | rd (off : Offset) (claim : Option Word)
  /-- `label:`. -/
  | label (name : String)
  /-- `BNE off, mask, v, label`. -/
  | bne (off : Offset) (mask v : Word) (target : String)
  deriving DecidableEq, Repr

/-- The transactions of one line (R99, the column "encoding"). -/
def HostLine.events : HostLine → List BusEvent
  | .wr off v => [.write off v]
  | .rd off _ => [.read off]
  | .label _ => []
  | .bne off _ _ _ => [.read off]

/-- A program's encoding: the transactions of its lines, in order (R101). -/
def hostEvents (program : List HostLine) : List BusEvent := program.flatMap HostLine.events

/-- Whether a BNE continues at its label on the word read (R99). -/
def bneTaken (mask v data : Word) : Bool := decide (data &&& mask ≠ v)

/-- `CMD mnem` and `CMD ADD_ROUND_KEY, r` (R100). -/
def cmdLine (i : Instr) : List HostLine := [.wr 0x0000C (encode i)]

/-- `WAIT` (R100): loop until DONE = 1 and BUSY = 0. -/
def waitLine : List HostLine := [.label "w", .bne 0x00010 0x00000003 0x00000002 "w"]

/-- `CLRST` (R100): clear DONE, ERR, PAD_FALLBACK and WIGN. -/
def clrstLine : List HostLine := [.wr 0x00010 0x00000036]

/-- `LD16 NAME, b0..b15` (R100), NAME given by the offset of its word 0. -/
def ld16Line (base : Offset) (b : Block) : List HostLine :=
  [.wr base (blockWord b 0), .wr (base + 4) (blockWord b 1), .wr (base + 8) (blockWord b 2),
    .wr (base + 12) (blockWord b 3)]

/-- `LDKEY b0..b15` (R100). -/
def ldKeyLine (b : Block) : List HostLine := ld16Line 0x00030 b ++ [.wr 0x00014 0x10]

/-- `LDIN b0..b(L-1)` (R100): bytes past L are written as 0. -/
def ldInLine (d : Bytes) : List HostLine :=
  (List.range ((d.length + 3) / 4)).map (fun k =>
    HostLine.wr (BitVec.ofNat 18 (0x10000 + 4 * k))
      (packWord (d.getD (4 * k) 0) (d.getD (4 * k + 1) 0) (d.getD (4 * k + 2) 0)
        (d.getD (4 * k + 3) 0))) ++
    [.wr 0x00018 (BitVec.ofNat 32 d.length)]

end Sys2Proof.Machine
end

