-- ==== Sys2Proof/Safety.lean ====
section
/-! DEFINITION. What counts as a safe state and a safe run, in the terms the claims use. -/

namespace Sys2Proof.Machine

/-- The offsets of the RAM bytes the instance has (10_state.md R37, R39, R40). -/
def ramOffset (s : State) (a : Nat) : Prop :=
  (0x00100 ≤ a ∧ a < 0x00100 + 176) ∨ (0x10000 ≤ a ∧ a < 0x10000 + bufBytes s) ∨
    (0x20000 ≤ a ∧ a < 0x20000 + (bufBytes s + 16))

/-- The memory is in its canonical form and lists RAM bytes only. -/
def MemoryOk (s : State) : Prop :=
  Memory.wf s.mem = true ∧ ∀ c ∈ s.mem, ramOffset s c.1

/-- The round-key invariant (10_state.md R46). -/
def RoundKeysOk (s : State) : Prop :=
  s.status.keyValid = true → memRead s .rk 0 176 = keyExpansion s.key ∧ s.keyLen = 16

/-- STATUS is consistent: ERR and ERR_CODE go together (10_state.md R28), and while BUSY = 1 the result flags
read 0 (R48). -/
def StatusOk (s : State) : Prop :=
  (s.status.err = false ↔ s.status.errCode = .none) ∧
    (s.status.busy = true →
      s.status.done = false ∧ s.status.err = false ∧ s.status.padFallback = false)

/-- The controller is consistent: it is idle exactly while BUSY = 0, it never rests at ACCEPT, its round
counter is in 0..10 (R44), and while it executes, the captured word is CMD's, a command whose
preconditions hold (40_command_control.md R111). -/
def ControllerOk (s : State) : Prop :=
  s.ctl.rnd ≤ 10 ∧ s.ctl.phase ≠ .accept ∧
    (s.status.busy = false → s.ctl = Controller.idle) ∧
    (s.status.busy = true →
      s.ctl.phase ≠ .idle ∧ s.ctl.word = s.cmd ∧
        ∃ i, decode s.cmd = .command i ∧ checkPreconditions i s = none)

/-- OUT_LEN never exceeds the OUT buffer (10_state.md R40). -/
def OutLenOk (s : State) : Prop := s.outLen.toNat ≤ bufBytes s + 16

/-- During reset no command is in flight (70_reset_and_hazards.md R280). -/
def ResetOk (s : State) : Prop := s.inReset = true → s.status.busy = false

/-- The invariant of the machine. -/
def Consistent (s : State) : Prop :=
  MemoryOk s ∧ RoundKeysOk s ∧ StatusOk s ∧ ControllerOk s ∧ OutLenOk s ∧ ResetOk s

/-- A step of a safe run ends in a next state: this machine has no faults and no refusals. -/
def Safe (s : State) : Prop := ∃ t, step s = .next t

/-- What a read or write transaction can leave different besides the block's results: WIGN, the reply, the
draw counter and the events still to come. -/
def eraseBusTrace (s : State) : State :=
  { s with status := { s.status with wign := false }, reply := none, draws := 0, inputs := [] }

end Sys2Proof.Machine
end

