-- ==== Sys2Proof/Certificates/Slice0/Obligations.lean ====
section
/-! DEFINITION. The statements about AES128-CORE, each with the rule of spec/ it formalises. -/

open Sys2Proof Sys2Proof.Machine

/-! ## Terms of the statements -/

/-- STATUS after a command has completed without an error: BUSY = 0, DONE = 1, ERR = 0, ERR_CODE = 0, WIGN as
before, and the given KEY_VALID and PAD_FALLBACK (10_state.md R26 to R31). -/
def Sys2Proof.Machine.doneStatus (s : State) (keyValid padFallback : Bool) : Status :=
  { busy := false, done := true, err := false, keyValid := keyValid, padFallback := padFallback,
    wign := s.status.wign, errCode := .none }

/-- STATUS after a command has failed with code e (60_exceptions.md R252). -/
def Sys2Proof.Machine.failedStatus (s : State) (e : ErrCode) : Status :=
  { busy := false, done := true, err := true, keyValid := s.status.keyValid, padFallback := false,
    wign := s.status.wign, errCode := e }

/-- STATUS after a command has been accepted (40_command_control.md R110, R112). -/
def Sys2Proof.Machine.acceptedStatus (s : State) : Status :=
  { busy := true, done := false, err := false, keyValid := s.status.keyValid, padFallback := false,
    wign := s.status.wign, errCode := .none }

/-- The command fails with code e: only CMD and STATUS change, and no command is in flight
(60_exceptions.md R252). -/
def Sys2Proof.Machine.FailsWith (i : Instr) (s : State) (e : ErrCode) : Prop :=
  exec i s = .next { s with cmd := encode i, status := failedStatus s e, ctl := Controller.idle }

/-- A host transaction can be served and takes effect: the core is idle and the reset input is released. -/
def Sys2Proof.Machine.Ready (s : State) : Prop := s.status.busy = false ∧ s.inReset = false

/-- The store of the word w is rejected with code 4 and changes CMD and STATUS only (30_encoding.md R96,
60_exceptions.md R252). -/
def Sys2Proof.Machine.RejectedWithCode4 (w : Word) : Prop :=
  (∃ why, decode w = .illegal why) ∧
    ∀ s : State, Ready s →
      busWrite 0x0000C w s =
        { s with cmd := w, status := failedStatus s .illegalCommand, ctl := Controller.idle,
                 reply := some (.write .ok) }

/-- The word w is the command i. Its store sets BUSY where the checks of 60_exceptions.md R251 pass; and every other
word with the same OPCODE, one whose ROUND or RSVD is not 0, is rejected with code 4. -/
def Sys2Proof.Machine.OnlyWordOf (w : Word) (i : Instr) : Prop :=
  encode i = w ∧ decode w = .command i ∧
    (∀ s : State, Ready s → checkPreconditions i s = none →
      (busWrite 0x0000C w s).status = acceptedStatus s) ∧
    ∀ w' : Word, w'.toNat % 256 = w.toNat % 256 → w' ≠ w → RejectedWithCode4 w'

/-- Prep (46_modes.md R230): a message that is block-aligned, the empty one included, is left as it is, and any
other is padded. -/
def Sys2Proof.Machine.PreparesAsStated : Prop :=
  ∀ m : Bytes, (m.length % 16 = 0 → prepare m = m) ∧ (m.length % 16 ≠ 0 → prepare m = padBytes m)

/-- A read at the offset is answered with the word v and the response OK. -/
def Sys2Proof.Machine.ReadsAs (s : State) (off : Offset) (v : Word) : Prop :=
  (busRead off s).reply = some (.read v .ok)

/-- The number of OUT bytes a command writes: 16 for a block command, the prepared length for an
encryption, the padded length for PAD, and all of the input for the commands that unpad. -/
def Sys2Proof.Machine.outBytesWritten (i : Instr) (s : State) : Nat := (blockInput i s).length

/-- A write to an aligned offset. -/
def Sys2Proof.Machine.isAlignedWrite : BusEvent → Bool
  | .write off _ => decide (off.toNat % 4 = 0)
  | .read _ | .clock | .assertReset | .releaseReset => false

/-- A host transaction or a clock: every event but a change of the reset input. -/
def Sys2Proof.Machine.isNotReset : BusEvent → Bool
  | .read _ | .write _ _ | .clock => true
  | .assertReset | .releaseReset => false

/-! ## Encoding -/

/-- 30_encoding.md sections 1 and 2: decoding the word of a well-formed command gives the command back. -/
def Obligations.EncodedCommandsDecodeBack : Prop :=
  ∀ i : Instr, i.wellFormed = true → decode (encode i) = .command i

/-- 30_encoding.md sections 1 and 2: a word that decodes is the word of its command, so every command has
one word. -/
def Obligations.DecodedWordsEncodeBack : Prop :=
  ∀ (w : Word) (i : Instr), decode w = .command i → encode i = w ∧ i.wellFormed = true

/-- 30_encoding.md R96: the illegal words, and that the store of one is rejected with code 4 and changes
CMD and STATUS only. -/
def Obligations.IllegalWordsAreRejectedWithCode4 : Prop :=
  (∀ w : Word, (∃ why, decode w = .illegal why) ↔
    (w.toNat / 4096 ≠ 0 ∨ (0x0A ≤ w.toNat % 256 ∧ w.toNat % 256 ≤ 0x0F) ∨ 0x18 ≤ w.toNat % 256 ∨
      (w.toNat % 256 ≠ 0x17 ∧ w.toNat / 256 % 16 ≠ 0) ∨
      (w.toNat % 256 = 0x17 ∧ 11 ≤ w.toNat / 256 % 16))) ∧
  ∀ (s : State) (w : Word) (why : IllegalReason), Ready s → s.ctl = Controller.idle →
    decode w = .illegal why →
    busWrite 0x0000C w s =
      { s with cmd := w, status := failedStatus s .illegalCommand, reply := some (.write .ok) }

/-- 30_encoding.md sections 2 and 3 (R94, R96): words written out from the table decode to their commands, and
four words are illegal. The names of the reasons are the model's choice (log 20): the hardware reports code 4 for each. -/
def Obligations.TableWordsDecode : Prop :=
  decode 0x00000000 = .command .nop ∧ decode 0x00000001 = .command .expandKey ∧
  decode 0x00000002 = .command .encBlock ∧ decode 0x00000007 = .command .cbcDec ∧
  decode 0x00000009 = .command .unpad ∧ decode 0x00000010 = .command .gfMul ∧
  decode 0x00000016 = .command .invMixColumns ∧ decode 0x00000A17 = .command (.addRoundKey 10) ∧
  decode 0x00000B17 = .illegal .roundOutOfRange ∧ decode 0x00000110 = .illegal .roundNotZero ∧
  decode 0x0000000A = .illegal .reservedOpcode ∧ decode 0x80000000 = .illegal .reservedBits

/-! ## Reset and the register map -/

/-- 10_state.md R47, for an instance of any legal buffer size: what every register reads after reset; the
ROMs hold their tables, the controller is idle and irq is 0. That a RAM byte holds one free draw until it is next written
is the model's reading (log 4). -/
def Obligations.ResetLeavesTheResetValues : Prop :=
  ∀ n : Fin 4095,
    readReg (State.resetWith n) .id = 0x41455331 ∧
    readReg (State.resetWith n) .param = BitVec.ofNat 32 (16 * (n.val + 1)) ∧
    readReg (State.resetWith n) .ctrl = 0 ∧ readReg (State.resetWith n) .cmd = 0 ∧
    readReg (State.resetWith n) .status = 0 ∧ readReg (State.resetWith n) .keyLen = 0x10 ∧
    readReg (State.resetWith n) .inLen = 0 ∧ readReg (State.resetWith n) .outLen = 0 ∧
    readReg (State.resetWith n) .gf = 0 ∧
    (∀ k : Fin 4, readReg (State.resetWith n) (.key k) = 0 ∧ readReg (State.resetWith n) (.iv k) = 0 ∧
      readReg (State.resetWith n) (.state k) = 0 ∧ readReg (State.resetWith n) (.chain k) = 0) ∧
    (∀ a : Nat, byteAt (State.resetWith n) a = Config.ramDraw 0 a) ∧
    (∀ (k : Fin 64) (j : Fin 4),
      wordByte (readReg (State.resetWith n) (.sbox k)) j.val = sBox (BitVec.ofNat 8 (4 * k.val + j.val)) ∧
      wordByte (readReg (State.resetWith n) (.invSbox k)) j.val =
        invSBox (BitVec.ofNat 8 (4 * k.val + j.val))) ∧
    (∀ k : Fin 16, readReg (State.resetWith n) (.rcon k) = (rcon k.val).zeroExtend 32) ∧
    (State.resetWith n).ctl.phase = .idle ∧ (State.resetWith n).irq = false

/-- 20_memory.md section 3, 10_state.md section 2: an aligned read while idle returns the register's value
with OK and changes nothing but the reply, so a second read returns the same; and which register each offset of the map
reads, the words beyond the buffers reading 0. The reply field is the model's (log 13). -/
def Obligations.IdleReadsHaveNoSideEffect : Prop :=
  (∀ (s : State) (off : Offset), Ready s → off.toNat % 4 = 0 →
    busRead off s = { s with reply := some (.read (regValue s (regAt off.toNat)) .ok) } ∧
    busRead off (busRead off s) = busRead off s) ∧
  ∀ s : State, Ready s →
    ReadsAs s 0x00000 0x41455331 ∧ ReadsAs s 0x00004 (BitVec.ofNat 32 (bufBytes s)) ∧
    ReadsAs s 0x00008 (if s.irqEn then 1 else 0) ∧ ReadsAs s 0x0000C s.cmd ∧
    ReadsAs s 0x00010 (regValue s .status) ∧ ReadsAs s 0x00014 (s.keyLen.zeroExtend 32) ∧
    ReadsAs s 0x00018 s.inLen ∧ ReadsAs s 0x0001C s.outLen ∧
    ReadsAs s 0x00020
      (s.gf.a.zeroExtend 32 ||| (s.gf.b.zeroExtend 32 <<< 8) ||| (s.gf.p.zeroExtend 32 <<< 16)) ∧
    (∀ k : Fin 4,
      ReadsAs s (BitVec.ofNat 18 (0x00030 + 4 * k.val)) (regValue s (.key k)) ∧
      ReadsAs s (BitVec.ofNat 18 (0x00040 + 4 * k.val)) (regValue s (.iv k)) ∧
      ReadsAs s (BitVec.ofNat 18 (0x00050 + 4 * k.val)) (regValue s (.state k)) ∧
      ReadsAs s (BitVec.ofNat 18 (0x00060 + 4 * k.val)) (regValue s (.chain k))) ∧
    (∀ k : Fin 44, ReadsAs s (BitVec.ofNat 18 (0x00100 + 4 * k.val)) (regValue s (.rk k))) ∧
    (∀ k : Nat, k < 0x4000 →
      ReadsAs s (BitVec.ofNat 18 (0x10000 + 4 * k))
        (if 4 * k < bufBytes s then regValue s (.inWindow k) else 0) ∧
      ReadsAs s (BitVec.ofNat 18 (0x20000 + 4 * k))
        (if 4 * k < bufBytes s + 16 then regValue s (.outWindow k) else 0))

/-- 20_memory.md R64: a misaligned transaction returns ERROR, and 0 for a read, with no other effect; an
aligned one returns OK, whatever the offset. -/
def Obligations.MisalignedTransactionsHaveNoEffect : Prop :=
  ∀ (s : State) (off : Offset) (d : Word), s.inReset = false →
    (off.toNat % 4 ≠ 0 →
      busRead off s = { s with reply := some (.read 0 .error) } ∧
      busWrite off d s = { s with reply := some (.write .error) }) ∧
    (off.toNat % 4 = 0 →
      (∃ data, (busRead off s).reply = some (.read data .ok)) ∧
      (busWrite off d s).reply = some (.write .ok))

/-- 20_memory.md R66: while BUSY = 1 an aligned write to any offset only sets WIGN, with response OK. -/
def Obligations.WritesWhileBusyOnlySetWign : Prop :=
  ∀ (s : State) (off : Offset) (d : Word), s.inReset = false → s.status.busy = true →
    off.toNat % 4 = 0 →
    busWrite off d s =
      { s with status := { s.status with wign := true }, reply := some (.write .ok) }

/-- 20_memory.md R61: byte 4k + j of every packed value is bits [8j+7 : 8j] of its word k, in both
directions. -/
def Obligations.ValuesArePackedLittleEndian : Prop :=
  (∀ (s : State) (k j : Fin 4),
    (regValue s (.key k)).extractLsb' (8 * j.val) 8 = s.key[4 * k.val + j.val] ∧
    (regValue s (.iv k)).extractLsb' (8 * j.val) 8 = s.iv[4 * k.val + j.val] ∧
    (regValue s (.state k)).extractLsb' (8 * j.val) 8 = s.cipherState[4 * k.val + j.val] ∧
    (regValue s (.chain k)).extractLsb' (8 * j.val) 8 = s.chain[4 * k.val + j.val]) ∧
  (∀ (s : State) (k : Fin 44) (j : Fin 4),
    (regValue s (.rk k)).extractLsb' (8 * j.val) 8 = byteAt s (0x00100 + (4 * k.val + j.val))) ∧
  (∀ (s : State) (k : Nat) (j : Fin 4), 4 * k < bufBytes s →
    (regValue s (.inWindow k)).extractLsb' (8 * j.val) 8 = byteAt s (0x10000 + (4 * k + j.val))) ∧
  (∀ (s : State) (k : Nat) (j : Fin 4), 4 * k < bufBytes s + 16 →
    (regValue s (.outWindow k)).extractLsb' (8 * j.val) 8 = byteAt s (0x20000 + (4 * k + j.val))) ∧
  (∀ (s : State) (k : Fin 64) (j : Fin 4),
    (regValue s (.sbox k)).extractLsb' (8 * j.val) 8 = sBox (BitVec.ofNat 8 (4 * k.val + j.val)) ∧
    (regValue s (.invSbox k)).extractLsb' (8 * j.val) 8 =
      invSBox (BitVec.ofNat 8 (4 * k.val + j.val))) ∧
  (∀ (b : Block) (k j i : Fin 4) (w : Word),
    (setBlockWord b k w)[4 * i.val + j.val] =
      if i = k then w.extractLsb' (8 * j.val) 8 else b[4 * i.val + j.val])

/-- 10_state.md section 2: what an aligned write to each writable register changes while idle, and that
it changes nothing else. -/
def Obligations.HostWritesChangeTheirRegisterOnly : Prop :=
  ∀ (s : State) (d : Word), Ready s →
    busWrite 0x00008 d s = { s with irqEn := d.getLsbD 0, reply := some (.write .ok) } ∧
    busWrite 0x00014 d s =
      { s with keyLen := d.extractLsb' 0 8, status := { s.status with keyValid := false },
               reply := some (.write .ok) } ∧
    busWrite 0x00018 d s = { s with inLen := d, reply := some (.write .ok) } ∧
    busWrite 0x00020 d s =
      { s with gf := { a := d.extractLsb' 0 8, b := d.extractLsb' 8 8, p := s.gf.p },
               reply := some (.write .ok) } ∧
    (∀ k : Fin 4,
      busWrite (BitVec.ofNat 18 (0x00030 + 4 * k.val)) d s =
        { s with key := setBlockWord s.key k d, status := { s.status with keyValid := false },
                 reply := some (.write .ok) } ∧
      busWrite (BitVec.ofNat 18 (0x00040 + 4 * k.val)) d s =
        { s with iv := setBlockWord s.iv k d, reply := some (.write .ok) } ∧
      busWrite (BitVec.ofNat 18 (0x00050 + 4 * k.val)) d s =
        { s with cipherState := setBlockWord s.cipherState k d, reply := some (.write .ok) })

/-- 10_state.md section 3: an aligned write to the IN window while idle stores its four bytes at 4k..4k+3
of IN and changes no other byte and no register; beyond BUF_BYTES it is ignored. -/
def Obligations.InWindowWritesStoreFourBytes : Prop :=
  ∀ (s : State) (d : Word) (k : Nat), Ready s → k < 0x4000 →
    (4 * k < bufBytes s →
      (∃ m, busWrite (BitVec.ofNat 18 (0x10000 + 4 * k)) d s =
        { s with mem := m, reply := some (.write .ok) }) ∧
      (∀ j : Fin 4,
        byteAt (busWrite (BitVec.ofNat 18 (0x10000 + 4 * k)) d s) (0x10000 + (4 * k + j.val)) =
          d.extractLsb' (8 * j.val) 8) ∧
      (∀ a : Nat, (a < 0x10000 + 4 * k ∨ 0x10000 + 4 * k + 4 ≤ a) →
        byteAt (busWrite (BitVec.ofNat 18 (0x10000 + 4 * k)) d s) a = byteAt s a)) ∧
    (bufBytes s ≤ 4 * k →
      busWrite (BitVec.ofNat 18 (0x10000 + 4 * k)) d s = { s with reply := some (.write .ok) } ∧
      regValue s (.inWindow k) = 0)

/-- 93_implementation_defined.md section 1 (I20), 10_state.md sections 2 and 3: a write to a read-only
register, the OUT window or a ROM window while idle is ignored with response OK; and a word of the OUT window at or
beyond BUF_BYTES + 16 reads 0. That it does so while BUSY = 1 too, and takes no draw, is the model's reading (log 21). -/
def Obligations.ReadOnlyOffsetsIgnoreWrites : Prop :=
  (∀ (s : State) (off : Offset), s.inReset = false → off.toNat % 4 = 0 →
    0x20000 + (bufBytes s + 16) ≤ off.toNat → off.toNat < 0x30000 →
    busRead off s = { s with reply := some (.read 0 .ok) }) ∧
  ∀ (s : State) (off : Offset) (d : Word), Ready s → off.toNat % 4 = 0 →
    (off.toNat < 0x00008 ∨ off.toNat = 0x0001C ∨ (0x00060 ≤ off.toNat ∧ off.toNat < 0x00070) ∨
      (0x00100 ≤ off.toNat ∧ off.toNat < 0x001B0) ∨ (0x00400 ≤ off.toNat ∧ off.toNat < 0x00640) ∨
      (0x20000 ≤ off.toNat ∧ off.toNat < 0x30000)) →
    busWrite off d s = { s with reply := some (.write .ok) }

/-- 10_state.md R42: reserved offsets read 0, BUSY or not, and ignore writes; while BUSY a write sets
WIGN. -/
def Obligations.ReservedOffsetsReadZeroAndIgnoreWrites : Prop :=
  ∀ (s : State) (off : Offset) (d : Word), s.inReset = false → off.toNat % 4 = 0 →
    ((0x00024 ≤ off.toNat ∧ off.toNat < 0x00030) ∨ (0x00070 ≤ off.toNat ∧ off.toNat < 0x00100) ∨
      (0x001B0 ≤ off.toNat ∧ off.toNat < 0x00400) ∨ (0x00640 ≤ off.toNat ∧ off.toNat < 0x10000) ∨
      0x30000 ≤ off.toNat) →
    busRead off s = { s with reply := some (.read 0 .ok) } ∧
    (s.status.busy = false → busWrite off d s = { s with reply := some (.write .ok) }) ∧
    (s.status.busy = true →
      busWrite off d s =
        { s with status := { s.status with wign := true }, reply := some (.write .ok) })

/-- 10_state.md R25: the bits of the STATUS word, with the numbers of the error codes (60_exceptions.md
R250), its reset value, and a write to STATUS: W1C of bits 1, 2 (with ERR_CODE), 4 and 5 while BUSY = 0, ignored with
WIGN set while BUSY = 1. -/
def Obligations.StatusFieldsAndWriteOneToClear : Prop :=
  (ErrCode.none.code = 0 ∧ ErrCode.invalidKeyLength.code = 1 ∧ ErrCode.invalidBlockLength.code = 2 ∧
    ErrCode.invalidCiphertextLength.code = 3 ∧ ErrCode.illegalCommand.code = 4 ∧
    ErrCode.noRoundKeys.code = 5 ∧ ErrCode.bufferRange.code = 6 ∧ ErrCode.emptyInput.code = 7) ∧
  (∀ s : State,
    (regValue s .status).getLsbD 0 = s.status.busy ∧ (regValue s .status).getLsbD 1 = s.status.done ∧
    (regValue s .status).getLsbD 2 = s.status.err ∧
    (regValue s .status).getLsbD 3 = s.status.keyValid ∧
    (regValue s .status).getLsbD 4 = s.status.padFallback ∧
    (regValue s .status).getLsbD 5 = s.status.wign ∧ (regValue s .status).extractLsb' 6 2 = 0 ∧
    (regValue s .status).extractLsb' 8 4 = s.status.errCode.code ∧
    (regValue s .status).extractLsb' 12 20 = 0) ∧
  (∀ n : Fin 4095, regValue (State.resetWith n) .status = 0) ∧
  ∀ (s : State) (w : Word), s.inReset = false →
    (s.status.busy = false →
      busWrite 0x00010 w s =
        { s with
          status :=
            { s.status with
              done := if w.getLsbD 1 then false else s.status.done
              err := if w.getLsbD 2 then false else s.status.err
              errCode := if w.getLsbD 2 then .none else s.status.errCode
              padFallback := if w.getLsbD 4 then false else s.status.padFallback
              wign := if w.getLsbD 5 then false else s.status.wign }
          reply := some (.write .ok) }) ∧
    (s.status.busy = true →
      busWrite 0x00010 w s =
        { s with status := { s.status with wign := true }, reply := some (.write .ok) })

/-- 10_state.md R48: while BUSY = 1 the listed registers read exactly, STATUS reads BUSY 1 and DONE, ERR,
ERR_CODE and PAD_FALLBACK 0, the reserved bits of STATUS and GF read 0, and the unspecified ones come from the read's own
draw; no read changes anything but the reply and the draw counter. -/
def Obligations.ReadsWhileBusy : Prop :=
  ∀ s : State, s.inReset = false → s.status.busy = true → StatusOk s →
    (∀ off : Offset, off.toNat % 4 = 0 →
      (regAt off.toNat ∈ [.id, .param, .ctrl, .cmd, .keyLen, .inLen] ∨
        (∃ k, regAt off.toNat = .key k) ∨ (∃ k, regAt off.toNat = .iv k) ∨
        (∃ k, regAt off.toNat = .sbox k) ∨ (∃ k, regAt off.toNat = .invSbox k) ∨
        (∃ k, regAt off.toNat = .rcon k) ∨ (∃ k, regAt off.toNat = .inWindow k)) →
      busRead off s = { s with reply := some (.read (regValue s (regAt off.toNat)) .ok) }) ∧
    (∀ off : Offset, off.toNat % 4 = 0 →
      (regAt off.toNat = .outLen ∨ (∃ k, regAt off.toNat = .state k) ∨
        (∃ k, regAt off.toNat = .chain k) ∨ (∃ k, regAt off.toNat = .rk k) ∨
        (∃ k, regAt off.toNat = .outWindow k ∧ 4 * k < bufBytes s + 16)) →
      busRead off s =
        { s with reply := some (.read (Config.busyDraw s.draws) .ok), draws := s.draws + 1 }) ∧
    (∃ v : Word,
      busRead 0x00010 s = { s with reply := some (.read v .ok), draws := s.draws + 1 } ∧
      v.getLsbD 0 = true ∧ v.getLsbD 1 = false ∧ v.getLsbD 2 = false ∧
      v.getLsbD 3 = (Config.busyDraw s.draws).getLsbD 3 ∧ v.getLsbD 4 = false ∧
      v.getLsbD 5 = s.status.wign ∧ v.extractLsb' 6 2 = 0 ∧ v.extractLsb' 8 4 = 0 ∧
      v.extractLsb' 12 20 = 0) ∧
    (∃ v : Word,
      busRead 0x00020 s = { s with reply := some (.read v .ok), draws := s.draws + 1 } ∧
      v.extractLsb' 0 8 = s.gf.a ∧ v.extractLsb' 8 8 = s.gf.b ∧
      v.extractLsb' 16 8 = (Config.busyDraw s.draws).extractLsb' 16 8 ∧ v.extractLsb' 24 8 = 0)

/-- 10_state.md R41: what the ROM windows read, also while BUSY, and that writes to them are ignored. -/
def Obligations.RomWindowsReadTheTables : Prop :=
  ∀ s : State, s.inReset = false →
    (∀ k : Fin 64,
      (busRead (BitVec.ofNat 18 (0x00400 + 4 * k.val)) s).reply =
        some (.read (packWord (sBox (BitVec.ofNat 8 (4 * k.val))) (sBox (BitVec.ofNat 8 (4 * k.val + 1)))
          (sBox (BitVec.ofNat 8 (4 * k.val + 2))) (sBox (BitVec.ofNat 8 (4 * k.val + 3)))) .ok) ∧
      (busRead (BitVec.ofNat 18 (0x00500 + 4 * k.val)) s).reply =
        some (.read (packWord (invSBox (BitVec.ofNat 8 (4 * k.val)))
          (invSBox (BitVec.ofNat 8 (4 * k.val + 1))) (invSBox (BitVec.ofNat 8 (4 * k.val + 2)))
          (invSBox (BitVec.ofNat 8 (4 * k.val + 3)))) .ok)) ∧
    (∀ k : Fin 16,
      (busRead (BitVec.ofNat 18 (0x00600 + 4 * k.val)) s).reply =
        some (.read (if k.val = 0 ∨ 11 ≤ k.val then 0 else (rcon k.val).zeroExtend 32) .ok)) ∧
    (∀ (off : Offset) (d : Word), s.status.busy = false → off.toNat % 4 = 0 →
      0x00400 ≤ off.toNat → off.toNat < 0x00640 →
      busWrite off d s = { s with reply := some (.write .ok) })

/-! ## The command lifecycle -/

/-- 40_command_control.md section 1 (R110, R112): the store of a command word. That the controller of an accepted
command has left ACCEPT when the store transition ends is the model's choice (log 8). -/
def Obligations.StoringACommandWord : Prop :=
  ∀ (s : State) (w : Word), s.inReset = false →
    (s.status.busy = false →
      (∀ why, decode w = .illegal why →
        busWrite 0x0000C w s =
          { s with cmd := w, status := failedStatus s .illegalCommand, ctl := Controller.idle,
                   reply := some (.write .ok) }) ∧
      (∀ i e, decode w = .command i → checkPreconditions i s = some e →
        busWrite 0x0000C w s =
          { s with cmd := w, status := failedStatus s e, ctl := Controller.idle,
                   reply := some (.write .ok) }) ∧
      (∀ i, decode w = .command i → checkPreconditions i s = none →
        ∃ c : Controller, c.word = w ∧ c.phase ≠ .idle ∧ c.phase ≠ .accept ∧
          busWrite 0x0000C w s =
            { s with cmd := w, status := acceptedStatus s, ctl := c, reply := some (.write .ok) })) ∧
    (s.status.busy = true →
      busWrite 0x0000C w s =
        { s with status := { s.status with wign := true }, reply := some (.write .ok) })

/-- 60_exceptions.md R251: the order of the checks, for every command and every illegal word. -/
def Obligations.PreconditionsAreCheckedInOrder : Prop :=
  (∀ (w : Word) (why : IllegalReason) (s : State), decode w = .illegal why →
    storeCommand w s = raiseError .illegalCommand (storeWord w s)) ∧
  ∀ (i : Instr) (s : State),
    (i.wellFormed = false → checkPreconditions i s = some .illegalCommand) ∧
    (i.wellFormed = true →
      (i ∈ [.encBlock, .decBlock, .ecbEnc, .ecbDec, .cbcEnc, .cbcDec, .pad, .unpad] ∧
          bufBytes s < s.inLen.toNat →
        checkPreconditions i s = some .bufferRange) ∧
      (¬ (i ∈ [.encBlock, .decBlock, .ecbEnc, .ecbDec, .cbcEnc, .cbcDec, .pad, .unpad] ∧
          bufBytes s < s.inLen.toNat) →
        (i ∈ [.expandKey, .encBlock, .decBlock, .ecbEnc, .ecbDec, .cbcEnc, .cbcDec] ∧
            s.keyLen ≠ 16 →
          checkPreconditions i s = some .invalidKeyLength) ∧
        (¬ (i ∈ [.expandKey, .encBlock, .decBlock, .ecbEnc, .ecbDec, .cbcEnc, .cbcDec] ∧
            s.keyLen ≠ 16) →
          checkPreconditions i s =
            if i ∈ [.encBlock, .decBlock] ∧ s.inLen.toNat ≠ 16 then some .invalidBlockLength
            else if i ∈ [.ecbDec, .cbcDec] ∧ (s.inLen.toNat % 16 ≠ 0 ∨ s.inLen.toNat = 0) then
              some .invalidCiphertextLength
            else if i = .unpad ∧ s.inLen.toNat = 0 then some .emptyInput
            else if (∃ r, i = .addRoundKey r) ∧ s.status.keyValid = false then some .noRoundKeys
            else none)))

/-- 60_exceptions.md R252: a failed precondition completes the command in the store transition with ERR,
ERR_CODE and DONE, and changes nothing else; irq is then IRQ_EN. The same holds of the command run by exec. -/
def Obligations.FailedCommandsChangeCmdAndStatusOnly : Prop :=
  ∀ (i : Instr) (s : State) (e : ErrCode), checkPreconditions i s = some e →
    FailsWith i s e ∧
    (i.wellFormed = true → Ready s → s.ctl = Controller.idle →
      busWrite 0x0000C (encode i) s =
        { s with cmd := encode i, status := failedStatus s e, reply := some (.write .ok) } ∧
      (busWrite 0x0000C (encode i) s).irq = s.irqEn)

/-- 40_command_control.md section 1 (R115): no command and no step of the machine stops; every one ends in
a next state. -/
def Obligations.NothingFaultsOrIsRefused : Prop :=
  (∀ (i : Instr) (s : State), ∃ t, exec i s = .next t) ∧ ∀ s : State, Safe s

/-- 40_command_control.md section 1: with the controller at COMPLETE, the next clock runs exec of the
captured command; the clock is the step where no event is left. -/
def Obligations.StepRunsTheCapturedCommand : Prop :=
  ∀ (s : State) (i : Instr) (rest : List BusEvent), s.inReset = false → s.ctl.phase = .complete →
    decode s.ctl.word = .command i →
    (s.inputs = [] → step s = exec i s) ∧
    (s.inputs = .clock :: rest → step s = exec i { s with inputs := rest })

/-- 20_memory.md section 5 (R70), 60_exceptions.md section 4 (R275): a step serves the oldest event; at
IDLE the clock changes nothing, and at any phase but IDLE and COMPLETE it changes hidden controller state only. -/
def Obligations.StepServesTheOldestEvent : Prop :=
  (∀ (s : State) (off : Offset) (d : Word) (rest : List BusEvent),
    (s.inputs = .read off :: rest → step s = .next (busRead off { s with inputs := rest })) ∧
    (s.inputs = .write off d :: rest → step s = .next (busWrite off d { s with inputs := rest }))) ∧
  (∀ s : State, s.inputs = [] → s.ctl.phase = .idle → step s = .next s) ∧
  (∀ (s : State) (i : Instr), s.inputs = [] → s.inReset = false → s.ctl.phase ≠ .idle →
    s.ctl.phase ≠ .complete → decode s.ctl.word = .command i →
    step s = .next { s with ctl := advance i s })

/-! ## The commands -/

/-- 40_command_control.md R116: NOP changes CMD and STATUS only, and raises irq where it is enabled. -/
def Obligations.NopChangesCmdAndStatusOnly : Prop :=
  OnlyWordOf 0x00000000 .nop ∧
  ∀ s : State,
    exec .nop s =
      .next { s with cmd := 0x00000000, status := doneStatus s s.status.keyValid false,
                     ctl := Controller.idle } ∧
    (s.irqEn = true → ∀ t, exec .nop s = .next t → t.irq = true)

/-- 41_constants_gf.md R137. -/
def Obligations.GfMulWritesTheProduct : Prop :=
  OnlyWordOf 0x00000010 .gfMul ∧
  ∀ s : State,
    exec .gfMul s =
      .next { s with cmd := 0x00000010, status := doneStatus s s.status.keyValid false,
                     gf := { a := s.gf.a, b := s.gf.b, p := gfMul s.gf.a s.gf.b },
                     ctl := Controller.idle }

/-- 42_round_primitives.md R157 to R162: each command applies its function to STATE and changes nothing
else but CMD and STATUS. -/
def Obligations.DiagnosticCommandsTransformState : Prop :=
  (OnlyWordOf 0x00000011 .subBytes ∧ OnlyWordOf 0x00000012 .invSubBytes ∧
    OnlyWordOf 0x00000013 .shiftRows ∧ OnlyWordOf 0x00000014 .invShiftRows ∧
    OnlyWordOf 0x00000015 .mixColumns ∧ OnlyWordOf 0x00000016 .invMixColumns) ∧
  ∀ s : State,
    exec .subBytes s =
      .next { s with cmd := 0x00000011, status := doneStatus s s.status.keyValid false,
                     cipherState := subBytes s.cipherState, ctl := Controller.idle } ∧
    exec .invSubBytes s =
      .next { s with cmd := 0x00000012, status := doneStatus s s.status.keyValid false,
                     cipherState := invSubBytes s.cipherState, ctl := Controller.idle } ∧
    exec .shiftRows s =
      .next { s with cmd := 0x00000013, status := doneStatus s s.status.keyValid false,
                     cipherState := shiftRows s.cipherState, ctl := Controller.idle } ∧
    exec .invShiftRows s =
      .next { s with cmd := 0x00000014, status := doneStatus s s.status.keyValid false,
                     cipherState := invShiftRows s.cipherState, ctl := Controller.idle } ∧
    exec .mixColumns s =
      .next { s with cmd := 0x00000015, status := doneStatus s s.status.keyValid false,
                     cipherState := mixColumns s.cipherState, ctl := Controller.idle } ∧
    exec .invMixColumns s =
      .next { s with cmd := 0x00000016, status := doneStatus s s.status.keyValid false,
                     cipherState := invMixColumns s.cipherState, ctl := Controller.idle }

/-- 42_round_primitives.md R163: the effect for ROUND 0..10 while KEY_VALID = 1; code 4 for ROUND 11..15,
code 5 while KEY_VALID = 0; and the words. -/
def Obligations.AddRoundKeyXorsTheStoredRoundKey : Prop :=
  (∀ w : Word, w.toNat % 256 = 0x17 →
    (w.toNat / 256 ≤ 10 → decode w = .command (.addRoundKey (BitVec.ofNat 4 (w.toNat / 256)))) ∧
    (11 ≤ w.toNat / 256 → RejectedWithCode4 w)) ∧
  ∀ (s : State) (r : BitVec 4),
    (r.toNat ≤ 10 → s.status.keyValid = true →
      exec (.addRoundKey r) s =
        .next { s with cmd := (r.zeroExtend 32 <<< 8) ||| 0x17,
                       status := doneStatus s true false,
                       cipherState :=
                         addRoundKey s.cipherState (blockOfBytes (memRead s .rk (16 * r.toNat) 16)),
                       ctl := Controller.idle }) ∧
    (11 ≤ r.toNat → FailsWith (.addRoundKey r) s .illegalCommand) ∧
    (r.toNat ≤ 10 → s.status.keyValid = false → FailsWith (.addRoundKey r) s .noRoundKeys)

/-- 43_key_schedule.md R174. -/
def Obligations.ExpandKeyWritesTheSchedule : Prop :=
  OnlyWordOf 0x00000001 .expandKey ∧
  ∀ s : State,
    (s.keyLen = 16 →
      exec .expandKey s =
        .next { s with cmd := 0x00000001, status := doneStatus s true false,
                       mem := memSetBytes s.mem 0x00100 (keyExpansion s.key),
                       ctl := Controller.idle }) ∧
    (s.keyLen ≠ 16 → FailsWith .expandKey s .invalidKeyLength)

/-- 44_block_cipher.md R196: the ciphertext of IN[0:16) goes to OUT[0:16) and STATE; codes 6, 1, 2 in that
order. -/
def Obligations.EncBlockEncryptsOneBlock : Prop :=
  OnlyWordOf 0x00000002 .encBlock ∧
  ∀ s : State,
    (s.keyLen = 16 → s.inLen = 16 →
      exec .encBlock s =
        .next { s with
          cmd := 0x00000002
          status := doneStatus s true false
          mem := memSetBytes (memSetBytes s.mem 0x00100 (keyExpansion s.key)) 0x20000
            (blockBytes (cipher (blockOfBytes (memRead s .inBuf 0 16)) (keyExpansion s.key)))
          outLen := 16
          cipherState := cipher (blockOfBytes (memRead s .inBuf 0 16)) (keyExpansion s.key)
          ctl := Controller.idle }) ∧
    (bufBytes s < s.inLen.toNat → FailsWith .encBlock s .bufferRange) ∧
    (s.inLen.toNat ≤ bufBytes s → s.keyLen ≠ 16 → FailsWith .encBlock s .invalidKeyLength) ∧
    (s.inLen.toNat ≤ bufBytes s → s.keyLen = 16 → s.inLen ≠ 16 →
      FailsWith .encBlock s .invalidBlockLength)

/-- 44_block_cipher.md R197: the plaintext of IN[0:16) goes to OUT[0:16) and STATE, and nothing is
unpadded. -/
def Obligations.DecBlockDecryptsOneBlock : Prop :=
  OnlyWordOf 0x00000003 .decBlock ∧
  ∀ s : State,
    (s.keyLen = 16 → s.inLen = 16 →
      exec .decBlock s =
        .next { s with
          cmd := 0x00000003
          status := doneStatus s true false
          mem := memSetBytes (memSetBytes s.mem 0x00100 (keyExpansion s.key)) 0x20000
            (blockBytes (invCipher (blockOfBytes (memRead s .inBuf 0 16)) (keyExpansion s.key)))
          outLen := 16
          cipherState := invCipher (blockOfBytes (memRead s .inBuf 0 16)) (keyExpansion s.key)
          ctl := Controller.idle }) ∧
    (bufBytes s < s.inLen.toNat → FailsWith .decBlock s .bufferRange) ∧
    (s.inLen.toNat ≤ bufBytes s → s.keyLen ≠ 16 → FailsWith .decBlock s .invalidKeyLength) ∧
    (s.inLen.toNat ≤ bufBytes s → s.keyLen = 16 → s.inLen ≠ 16 →
      FailsWith .decBlock s .invalidBlockLength)

/-- 45_padding.md R214. -/
def Obligations.PadAppendsThePadding : Prop :=
  OnlyWordOf 0x00000008 .pad ∧
  ∀ s : State,
    (s.inLen.toNat ≤ bufBytes s →
      exec .pad s =
        .next { s with
          cmd := 0x00000008
          status := doneStatus s s.status.keyValid false
          mem := memSetBytes s.mem 0x20000 (padBytes (memRead s .inBuf 0 s.inLen.toNat))
          outLen := BitVec.ofNat 32 (padBytes (memRead s .inBuf 0 s.inLen.toNat)).length
          ctl := Controller.idle }) ∧
    (bufBytes s < s.inLen.toNat → FailsWith .pad s .bufferRange)

/-- 45_padding.md R215. -/
def Obligations.UnpadStripsWithTheGuard : Prop :=
  OnlyWordOf 0x00000009 .unpad ∧
  ∀ s : State,
    (s.inLen.toNat ≤ bufBytes s → s.inLen.toNat ≠ 0 →
      exec .unpad s =
        .next { s with
          cmd := 0x00000009
          status :=
            doneStatus s s.status.keyValid (unpadGuard (memRead s .inBuf 0 s.inLen.toNat)).2
          mem := memSetBytes s.mem 0x20000 (memRead s .inBuf 0 s.inLen.toNat)
          outLen := BitVec.ofNat 32 (unpadGuard (memRead s .inBuf 0 s.inLen.toNat)).1.length
          ctl := Controller.idle }) ∧
    (bufBytes s < s.inLen.toNat → FailsWith .unpad s .bufferRange) ∧
    (s.inLen.toNat = 0 → FailsWith .unpad s .emptyInput)

/-- 46_modes.md R231: ECB encryption of IN[0:IN_LEN), padded where it is not block-aligned; STATE takes
the last ciphertext block where there is one, and an empty message gives no byte. ECB encryption enciphers each block on
its own. -/
def Obligations.EcbEncEncryptsTheMessage : Prop :=
  OnlyWordOf 0x00000004 .ecbEnc ∧ PreparesAsStated ∧
  (∀ d rk : Bytes, d.length % 16 = 0 →
    (ecbEncBytes d rk).length = d.length ∧
    ∀ j : Nat, 16 * j < d.length →
      slice (ecbEncBytes d rk) (16 * j) 16 =
        blockBytes (cipher (blockOfBytes (slice d (16 * j) 16)) rk)) ∧
  (∀ s : State, s.inLen = 0 → s.keyLen = 16 →
    ∃ t, exec .ecbEnc s = .next t ∧ t.outLen = 0 ∧ t.cipherState = s.cipherState ∧
      ∀ a : Nat, 0x20000 ≤ a → byteAt t a = byteAt s a) ∧
  ∀ s : State,
    (s.inLen.toNat ≤ bufBytes s → s.keyLen = 16 → ∀ c : Bytes,
      c = ecbEncBytes (prepare (memRead s .inBuf 0 s.inLen.toNat)) (keyExpansion s.key) →
      exec .ecbEnc s =
        .next { s with
          cmd := 0x00000004
          status := doneStatus s true false
          mem := memSetBytes (memSetBytes s.mem 0x00100 (keyExpansion s.key)) 0x20000 c
          outLen := BitVec.ofNat 32 c.length
          cipherState :=
            if c.length = 0 then s.cipherState else blockOfBytes (slice c (c.length - 16) 16)
          ctl := Controller.idle }) ∧
    (bufBytes s < s.inLen.toNat → FailsWith .ecbEnc s .bufferRange) ∧
    (s.inLen.toNat ≤ bufBytes s → s.keyLen ≠ 16 → FailsWith .ecbEnc s .invalidKeyLength)

/-- 46_modes.md R232: ECB decryption of IN[0:IN_LEN); all the decrypted bytes go to OUT, OUT_LEN and
PAD_FALLBACK come from the guarded unpad, STATE takes the last decrypted block. ECB decryption deciphers each block on
its own. -/
def Obligations.EcbDecDecryptsAndUnpads : Prop :=
  OnlyWordOf 0x00000005 .ecbDec ∧
  (∀ c rk : Bytes, c.length % 16 = 0 →
    (ecbDecBytes c rk).length = c.length ∧
    ∀ j : Nat, 16 * j < c.length →
      slice (ecbDecBytes c rk) (16 * j) 16 =
        blockBytes (invCipher (blockOfBytes (slice c (16 * j) 16)) rk)) ∧
  ∀ s : State,
    (s.inLen.toNat ≤ bufBytes s → s.keyLen = 16 → s.inLen.toNat % 16 = 0 → s.inLen.toNat ≠ 0 →
      ∀ p : Bytes, p = ecbDecBytes (memRead s .inBuf 0 s.inLen.toNat) (keyExpansion s.key) →
      exec .ecbDec s =
        .next { s with
          cmd := 0x00000005
          status := doneStatus s true (unpadGuard p).2
          mem := memSetBytes (memSetBytes s.mem 0x00100 (keyExpansion s.key)) 0x20000 p
          outLen := BitVec.ofNat 32 (unpadGuard p).1.length
          cipherState := blockOfBytes (slice p (p.length - 16) 16)
          ctl := Controller.idle }) ∧
    (bufBytes s < s.inLen.toNat → FailsWith .ecbDec s .bufferRange) ∧
    (s.inLen.toNat ≤ bufBytes s → s.keyLen ≠ 16 → FailsWith .ecbDec s .invalidKeyLength) ∧
    (s.inLen.toNat ≤ bufBytes s → s.keyLen = 16 → s.inLen.toNat % 16 ≠ 0 ∨ s.inLen.toNat = 0 →
      FailsWith .ecbDec s .invalidCiphertextLength)

/-- 46_modes.md R234: CBC encryption of IN[0:IN_LEN) from IV; CHAIN takes the final `previous`, which is
IV where there is no block; an empty message gives no byte and leaves STATE. -/
def Obligations.CbcEncEncryptsTheMessage : Prop :=
  OnlyWordOf 0x00000006 .cbcEnc ∧ PreparesAsStated ∧
  (∀ s : State, s.inLen = 0 → s.keyLen = 16 →
    ∃ t, exec .cbcEnc s = .next t ∧ t.outLen = 0 ∧ t.chain = s.iv ∧ t.cipherState = s.cipherState ∧
      ∀ a : Nat, 0x20000 ≤ a → byteAt t a = byteAt s a) ∧
  ∀ s : State,
    (s.inLen.toNat ≤ bufBytes s → s.keyLen = 16 → ∀ (c : Bytes) (previous : Block),
      (c, previous) =
        cbcEncBytes (prepare (memRead s .inBuf 0 s.inLen.toNat)) (keyExpansion s.key) s.iv →
      exec .cbcEnc s =
        .next { s with
          cmd := 0x00000006
          status := doneStatus s true false
          mem := memSetBytes (memSetBytes s.mem 0x00100 (keyExpansion s.key)) 0x20000 c
          outLen := BitVec.ofNat 32 c.length
          chain := previous
          cipherState :=
            if c.length = 0 then s.cipherState else blockOfBytes (slice c (c.length - 16) 16)
          ctl := Controller.idle }) ∧
    (bufBytes s < s.inLen.toNat → FailsWith .cbcEnc s .bufferRange) ∧
    (s.inLen.toNat ≤ bufBytes s → s.keyLen ≠ 16 → FailsWith .cbcEnc s .invalidKeyLength)

/-- 46_modes.md R236: CBC decryption of IN[0:IN_LEN) from IV; CHAIN takes the last ciphertext block, STATE
the last block's InvCipher output before the XOR. -/
def Obligations.CbcDecDecryptsAndUnpads : Prop :=
  OnlyWordOf 0x00000007 .cbcDec ∧
  ∀ s : State,
    (s.inLen.toNat ≤ bufBytes s → s.keyLen = 16 → s.inLen.toNat % 16 = 0 → s.inLen.toNat ≠ 0 →
      ∀ (p : Bytes) (previous : Block),
      (p, previous) =
        cbcDecBytes (memRead s .inBuf 0 s.inLen.toNat) (keyExpansion s.key) s.iv →
      previous = blockOfBytes (memRead s .inBuf (s.inLen.toNat - 16) 16) ∧
      exec .cbcDec s =
        .next { s with
          cmd := 0x00000007
          status := doneStatus s true (unpadGuard p).2
          mem := memSetBytes (memSetBytes s.mem 0x00100 (keyExpansion s.key)) 0x20000 p
          outLen := BitVec.ofNat 32 (unpadGuard p).1.length
          chain := previous
          cipherState :=
            invCipher (blockOfBytes (memRead s .inBuf (s.inLen.toNat - 16) 16)) (keyExpansion s.key)
          ctl := Controller.idle }) ∧
    (bufBytes s < s.inLen.toNat → FailsWith .cbcDec s .bufferRange) ∧
    (s.inLen.toNat ≤ bufBytes s → s.keyLen ≠ 16 → FailsWith .cbcDec s .invalidKeyLength) ∧
    (s.inLen.toNat ≤ bufBytes s → s.keyLen = 16 → s.inLen.toNat % 16 ≠ 0 ∨ s.inLen.toNat = 0 →
      FailsWith .cbcDec s .invalidCiphertextLength)

/-! ## Frames -/

/-- 40_command_control.md section 2: what no command writes, and which registers which command leaves
unchanged, for every form, whether the command completes or fails. -/
def Obligations.RegistersNoCommandWrites : Prop :=
  ∀ (i : Instr) (s t : State), exec i s = .next t →
    t.key = s.key ∧ t.keyLen = s.keyLen ∧ t.iv = s.iv ∧ t.inLen = s.inLen ∧ t.irqEn = s.irqEn ∧
    t.gf.a = s.gf.a ∧ t.gf.b = s.gf.b ∧ t.bufBlocks = s.bufBlocks ∧
    t.status.wign = s.status.wign ∧ t.inReset = s.inReset ∧ t.inputs = s.inputs ∧
    t.reply = s.reply ∧ t.epoch = s.epoch ∧ t.draws = s.draws ∧ t.cmd = encode i ∧
    (i ≠ .gfMul → t.gf.p = s.gf.p) ∧
    (i ≠ .cbcEnc → i ≠ .cbcDec → t.chain = s.chain) ∧
    (readsIn i = false → t.outLen = s.outLen) ∧
    (i ∈ [.nop, .expandKey, .pad, .unpad, .gfMul] → t.cipherState = s.cipherState) ∧
    (usesKey i = false → t.status.keyValid = s.status.keyValid) ∧
    (unpads i = false → t.status.padFallback = false)

/-- 40_command_control.md section 2, 46_modes.md section 3: every byte of memory a command leaves as it
was. A command that uses the key may write the 176 bytes of RK; one that reads IN writes OUT from its byte 0, as many
bytes as outBytesWritten computes; a failed command writes none. -/
def Obligations.MemoryBytesCommandsLeaveUnchanged : Prop :=
  ∀ (i : Instr) (s t : State), exec i s = .next t →
    (checkPreconditions i s ≠ none → ∀ a : Nat, byteAt t a = byteAt s a) ∧
    (checkPreconditions i s = none →
      ∀ a : Nat, (usesKey i = true → a < 0x00100 ∨ 0x00100 + 176 ≤ a) →
        (readsIn i = true → a < 0x20000 ∨ 0x20000 + outBytesWritten i s ≤ a) →
        byteAt t a = byteAt s a)

/-- 00_scope.md section 5 (R17): reading what was just written gives it back, every byte outside the
written ones reads as before, and the memory keeps its canonical form. -/
def Obligations.MemWriteReadsBack : Prop :=
  ∀ (s : State) (sp : Space) (off : Nat) (v : Bytes),
    memRead (memWrite sp off v s) sp off v.length = v ∧
    (∀ a : Nat, (a < sp.base + off ∨ sp.base + off + v.length ≤ a) →
      byteAt (memWrite sp off v s) a = byteAt s a) ∧
    (Memory.wf s.mem = true → Memory.wf (memWrite sp off v s).mem = true)

/-- 10_state.md R29: the successful completions that set KEY_VALID, the accepted writes and the reset that
clear it, and that no other step changes it. -/
def Obligations.KeyValidChangesOnlyAsStated : Prop :=
  (∀ (i : Instr) (s t : State), usesKey i = true → checkPreconditions i s = none →
    exec i s = .next t → t.status.keyValid = true) ∧
  (∀ (s : State) (off : Offset) (d : Word), Ready s → off.toNat % 4 = 0 →
    (off.toNat = 0x00014 ∨ (0x00030 ≤ off.toNat ∧ off.toNat < 0x00040)) →
    (busWrite off d s).status.keyValid = false) ∧
  (∀ s : State, (assertReset s).status.keyValid = false) ∧
  ∀ s t : State, step s = .next t → t.status.keyValid ≠ s.status.keyValid →
    (∃ off d rest, s.inputs = .write off d :: rest ∧ Ready s ∧
      (off.toNat = 0x00014 ∨ (0x00030 ≤ off.toNat ∧ off.toNat < 0x00040)) ∧
      t.status.keyValid = false) ∨
    (∃ rest, s.inputs = .assertReset :: rest ∧ t.status.keyValid = false) ∨
    (∃ i, decode s.ctl.word = .command i ∧ usesKey i = true ∧ s.ctl.phase = .complete ∧
      checkPreconditions i s = none ∧ t.status.keyValid = true)

/-! ## Whole-machine rules -/

/-- 20_memory.md section 5 (R72): after a store the host sees BUSY = 1 with DONE = 0, or BUSY = 0 with
DONE = 1, and reads and clocks keep it so: STATUS never shows both 0. -/
def Obligations.StatusShowsBusyOrDoneAfterAStore : Prop :=
  (∀ (s : State) (w : Word), Ready s →
    (busWrite 0x0000C w s).status.busy ≠ (busWrite 0x0000C w s).status.done) ∧
  ∀ (s t : State), step s = .next t → s.inReset = false → s.status.busy ≠ s.status.done →
    (s.inputs = [] ∨ (∃ rest, s.inputs = .clock :: rest) ∨ ∃ off rest, s.inputs = .read off :: rest) →
    (s.status.busy = false → s.ctl = Controller.idle) →
    t.status.busy ≠ t.status.done

/-- 60_exceptions.md R262: irq is IRQ_EN and DONE; it is cleared by W1C of DONE, by the store of a command
that is accepted, and by IRQ_EN = 0, which leaves DONE; every completion, with or without an error,
raises it where it is enabled. -/
def Obligations.IrqIsEnableAndDone : Prop :=
  (∀ s : State, s.irq = (s.irqEn && s.status.done)) ∧
  (∀ (s : State) (w : Word), Ready s →
    (w.getLsbD 1 = true → (busWrite 0x00010 w s).irq = false) ∧
    (w.getLsbD 0 = false →
      (busWrite 0x00008 w s).irq = false ∧ (busWrite 0x00008 w s).status.done = s.status.done) ∧
    (∀ i, decode w = .command i → checkPreconditions i s = none →
      (busWrite 0x0000C w s).irq = false)) ∧
  ∀ (i : Instr) (s t : State), exec i s = .next t → t.irq = s.irqEn

/-- 70_reset_and_hazards.md section 1: the reset event gives every register its reset value, abandons the
command in flight and leaves the RAMs unspecified; during reset a transaction changes nothing but its own reply, which is
unspecified, and the clock changes nothing. The draws, their counters and the cleared reply are the model's (logs 4, 6,
12, 13). -/
def Obligations.ResetEventAbandonsEverything : Prop :=
  (∀ (s : State) (rest : List BusEvent), s.inputs = .assertReset :: rest →
    ∃ t, step s = .next t ∧
      t = { State.resetWith s.bufBlocks with
              inReset := true, inputs := rest, epoch := s.epoch + 1, draws := s.draws } ∧
      t.status.done = false ∧ t.irq = false ∧
      ∀ a : Nat, byteAt t a = Config.ramDraw (s.epoch + 1) a) ∧
  (∀ (s : State) (off : Offset) (d : Word), s.inReset = true →
    (∃ r, busRead off s =
      { s with reply := some (.read (Config.resetDataDraw s.draws) r), draws := s.draws + 1 }) ∧
    (∃ r, busWrite off d s = { s with reply := some (.write r), draws := s.draws + 1 })) ∧
  (∀ s : State, s.inReset = true → s.inputs = [] → step s = .next s) ∧
  ∀ (s : State) (rest : List BusEvent), s.inputs = .releaseReset :: rest →
    step s = .next { s with inReset := false, inputs := rest }

/-- The invariant holds after reset, for an instance of any legal buffer size. -/
def Obligations.InvariantHoldsAfterReset : Prop := ∀ n : Fin 4095, Consistent (State.resetWith n)

/-- 10_state.md section 5 (R46, R48) and the canonical form of memory: every step from a state that meets
the invariant ends in one that meets it. -/
def Obligations.EveryStepKeepsTheInvariant : Prop :=
  ∀ s t : State, Consistent s → step s = .next t → Consistent t

/-- 40_command_control.md section 1 (R111), 60_exceptions.md section 2 (R253): an accepted command never
fails. -/
def Obligations.AcceptedCommandsNeverFail : Prop :=
  ∀ s t : State, Consistent s → s.status.busy = true → step s = .next t → t.status.err = false

/-- 40_command_control.md section 1 (R113 to R115), 70_reset_and_hazards.md section 4: the store followed
by the table's number of clocks is exactly exec, the command as one atomic event. The number of clocks is the model's
choice (log 3), taken from the informative table. -/
def Obligations.ClocksFromStoreToCompletionAreExec : Prop :=
  ∀ (i : Instr) (s : State), Ready s → s.inputs = [] → checkPreconditions i s = none →
    Host.Core.run Sys2Proof.core (cycleCount i s) (busWrite 0x0000C (encode i) s) =
      exec i { s with reply := some (.write .ok) }

/-- 40_command_control.md section 1 (R112 to R115), 20_memory.md section 5 (R70, R71): whatever host
transactions fall between a command's store and its completion, the completed state is exec's of the
state at the store, but for WIGN, which records whether an aligned write was lost, the last reply and the
draw counter. That the completion falls at exactly cycleCount clocks is the model's choice (log 3), taken from the
informative table of 70_reset_and_hazards.md section 4. -/
def Obligations.TransactionsWhileBusyDoNotChangeTheResult : Prop :=
  ∀ (i : Instr) (s : State) (events : List BusEvent), Ready s → checkPreconditions i s = none →
    events.all isNotReset = true → events.countP (· == .clock) + 1 = cycleCount i s →
    ∃ t u, Host.Core.run Sys2Proof.core (events.length + 1)
        { busWrite 0x0000C (encode i) s with inputs := events ++ [.clock] } = .next t ∧
      exec i s = .next u ∧ eraseBusTrace t = eraseBusTrace u ∧
      t.status.wign = (s.status.wign || events.any isAlignedWrite)

/-- 44_block_cipher.md section 1 (R190, R191) and section 2 (R194, R195): Cipher and InvCipher are the
sequences of rounds written in the primitives; and from INIT, the eleven steps INIT, ROUND nine times and FINAL end at
STORE with Cipher, or InvCipher, of the loaded block in the working state. The value of rnd at STORE, 10 or 0, is the
model's choice (log 8). -/
def Obligations.RoundStepsComputeTheCipher : Prop :=
  (∀ (block : Block) (rk : Bytes),
    cipher block rk =
      addRoundKey
        (shiftRows (subBytes
          ([1, 2, 3, 4, 5, 6, 7, 8, 9].foldl
            (fun s r => addRoundKey (mixColumns (shiftRows (subBytes s))) (roundKey rk r))
            (addRoundKey block (roundKey rk 0)))))
        (roundKey rk 10) ∧
    invCipher block rk =
      addRoundKey
        (invSubBytes (invShiftRows
          ([9, 8, 7, 6, 5, 4, 3, 2, 1].foldl
            (fun s r => invMixColumns (addRoundKey (invSubBytes (invShiftRows s)) (roundKey rk r)))
            (addRoundKey block (roundKey rk 10)))))
        (roundKey rk 0)) ∧
  ∀ (i : Instr) (s : State), s.ctl.phase = .init →
    (engine i = .encipher →
      ((fun t : State => { t with ctl := advance i t })^[11] s).ctl =
        { s.ctl with phase := .store, rnd := 10, work := cipher s.ctl.work s.ctl.sched }) ∧
    (engine i = .decipher →
      ((fun t : State => { t with ctl := advance i t })^[11] s).ctl =
        { s.ctl with phase := .store, rnd := 0, work := invCipher s.ctl.work s.ctl.sched })

/-- 44_block_cipher.md section 2, 46_modes.md section 1 (R230): one clock before its completion, the
controller of an accepted command holds the schedule, the output bytes, OUT_LEN and CHAIN that the completion
writes. The fields sched and out are the model's own (log 8), the running length's steps are its choice (log 26), and so
is the clock count that leads there (log 3, from the informative table of 70_reset_and_hazards.md section 4). STATE and PAD_FALLBACK are not spoken of here. -/
def Obligations.ControllerArrivesAtTheResult : Prop :=
  ∀ (i : Instr) (s : State), Ready s → RoundKeysOk s → s.inputs = [] →
    checkPreconditions i s = none →
    ∃ t u, Host.Core.run Sys2Proof.core (cycleCount i s - 1) (busWrite 0x0000C (encode i) s) =
        .next t ∧
      exec i s = .next u ∧ t.ctl.phase = .complete ∧
      (usesKey i = true → t.ctl.sched = keyExpansion s.key) ∧
      (readsIn i = true →
        t.ctl.out = memRead u .outBuf 0 (outBytesWritten i s) ∧ t.ctl.runLen = u.outLen.toNat) ∧
      (i = .cbcEnc ∨ i = .cbcDec → t.ctl.prev = u.chain)

/-! ## The algorithms -/

/-- 41_constants_gf.md section 2 (R136): the laws of GF(2^8). -/
def Obligations.GfFieldLaws : Prop :=
  (∀ a b : Byte, gfMul a b = gfMul b a) ∧
  (∀ a b c : Byte, gfMul (gfMul a b) c = gfMul a (gfMul b c)) ∧
  (∀ a b c : Byte, gfMul a (b ^^^ c) = gfMul a b ^^^ gfMul a c) ∧
  (∀ a : Byte, gfMul a 0x00 = 0x00 ∧ gfMul a 0x01 = a ∧
    gfMul a 0x02 = (a <<< 1) ^^^ (if a.getLsbD 7 then 0x1B else 0x00)) ∧
  (∀ a : Byte, a ≠ 0 → ∃! b : Byte, gfMul a b = 0x01)

/-- 41_constants_gf.md section 1 (R130 to R132): the S-box is the inverse followed by the affine map, the
inverse S-box undoes it, and the round constants are the powers of 0x02, with 0 where no source defines one. The spec
marks the tables as general knowledge (log 18). -/
def Obligations.SBoxIsTheAffineMapOfTheInverse : Prop :=
  (∀ x : Byte, ∃ b : Byte, (x = 0 → b = 0) ∧ (x ≠ 0 → gfMul x b = 0x01) ∧
    sBox x = b ^^^ b.rotateLeft 1 ^^^ b.rotateLeft 2 ^^^ b.rotateLeft 3 ^^^ b.rotateLeft 4 ^^^ 0x63) ∧
  (∀ x : Byte, invSBox (sBox x) = x) ∧ (∀ y : Byte, sBox (invSBox y) = y) ∧
  rcon 1 = 0x01 ∧ (∀ k : Nat, 1 ≤ k → k ≤ 9 → rcon (k + 1) = gfMul (rcon k) 0x02) ∧
  rcon 0 = 0x00 ∧ ∀ k : Nat, 11 ≤ k → rcon k = 0x00

/-- 42_round_primitives.md section 1 (R150 to R156), 41_constants_gf.md section 1 (R133, R134): what each
primitive computes, and that the primitives and their inverses undo each other. SubBytes is the S-box byte by byte;
ShiftRows and InvShiftRows are the index permutations P and Q; MixColumns and InvMixColumns are the dot products of each
column with the rows of their matrices, which the spec marks as general knowledge (log 18). -/
def Obligations.RoundPrimitivesAreInvertible : Prop :=
  (∀ (s k : Block) (i : Fin 16),
    (subBytes s)[i.val] = sBox s[i.val] ∧ (invSubBytes s)[i.val] = invSBox s[i.val] ∧
    (addRoundKey s k)[i.val] = s[i.val] ^^^ k[i.val]) ∧
  (∀ s : Block,
    shiftRows s = #v[s[0], s[5], s[10], s[15], s[4], s[9], s[14], s[3], s[8], s[13], s[2], s[7], s[12], s[1],
      s[6], s[11]] ∧
    invShiftRows s = #v[s[0], s[13], s[10], s[7], s[4], s[1], s[14], s[11], s[8], s[5], s[2], s[15], s[12],
      s[9], s[6], s[3]]) ∧
  (∀ (s : Block) (c : Fin 4) (a0 a1 a2 a3 : Byte),
    a0 = s[4 * c.val] → a1 = s[4 * c.val + 1] → a2 = s[4 * c.val + 2] → a3 = s[4 * c.val + 3] →
    (mixColumns s)[4 * c.val] =
      gfMul 0x02 a0 ^^^ gfMul 0x03 a1 ^^^ gfMul 0x01 a2 ^^^ gfMul 0x01 a3 ∧
    (mixColumns s)[4 * c.val + 1] =
      gfMul 0x01 a0 ^^^ gfMul 0x02 a1 ^^^ gfMul 0x03 a2 ^^^ gfMul 0x01 a3 ∧
    (mixColumns s)[4 * c.val + 2] =
      gfMul 0x01 a0 ^^^ gfMul 0x01 a1 ^^^ gfMul 0x02 a2 ^^^ gfMul 0x03 a3 ∧
    (mixColumns s)[4 * c.val + 3] =
      gfMul 0x03 a0 ^^^ gfMul 0x01 a1 ^^^ gfMul 0x01 a2 ^^^ gfMul 0x02 a3 ∧
    (invMixColumns s)[4 * c.val] =
      gfMul 0x0e a0 ^^^ gfMul 0x0b a1 ^^^ gfMul 0x0d a2 ^^^ gfMul 0x09 a3 ∧
    (invMixColumns s)[4 * c.val + 1] =
      gfMul 0x09 a0 ^^^ gfMul 0x0e a1 ^^^ gfMul 0x0b a2 ^^^ gfMul 0x0d a3 ∧
    (invMixColumns s)[4 * c.val + 2] =
      gfMul 0x0d a0 ^^^ gfMul 0x09 a1 ^^^ gfMul 0x0e a2 ^^^ gfMul 0x0b a3 ∧
    (invMixColumns s)[4 * c.val + 3] =
      gfMul 0x0b a0 ^^^ gfMul 0x0d a1 ^^^ gfMul 0x09 a2 ^^^ gfMul 0x0e a3) ∧
  (∀ s : Block, invSubBytes (subBytes s) = s ∧ subBytes (invSubBytes s) = s) ∧
  (∀ s : Block, invShiftRows (shiftRows s) = s ∧ shiftRows (invShiftRows s) = s) ∧
  (∀ s : Block, invMixColumns (mixColumns s) = s ∧ mixColumns (invMixColumns s) = s) ∧
  (∀ s k : Block, addRoundKey (addRoundKey s k) k = s)

/-- 43_key_schedule.md R170: the schedule is 176 bytes, begins with the key, each later word is the
(possibly transformed) previous word XOR the word four positions earlier, and round key r is its bytes
[16r, 16r+16). -/
def Obligations.KeyExpansionFollowsTheRecurrence : Prop :=
  ∀ key : Block,
    (keyExpansion key).length = 176 ∧
    (∀ j : Fin 16, (keyExpansion key).getD j.val 0 = key[j.val]) ∧
    (∀ i : Nat, 4 ≤ i → i < 44 →
      (i % 4 ≠ 0 →
        scheduleWord (keyExpansion key) i =
          xorWord (scheduleWord (keyExpansion key) (i - 1)) (scheduleWord (keyExpansion key) (i - 4))) ∧
      (i % 4 = 0 → ∀ t : KeyWord, t = scheduleWord (keyExpansion key) (i - 1) →
        scheduleWord (keyExpansion key) i =
          xorWord #v[sBox t[1] ^^^ rcon (i / 4), sBox t[2], sBox t[3], sBox t[0]]
            (scheduleWord (keyExpansion key) (i - 4)))) ∧
    (∀ (r : Nat) (j : Fin 16), r ≤ 10 →
      (roundKey (keyExpansion key) r)[j.val] = (keyExpansion key).getD (16 * r + j.val) 0)

/-- 44_block_cipher.md section 1 (R192): decrypting an encrypted block gives it back, and the other way
round, for every block and every key. -/
def Obligations.CipherAndInvCipherUndoEachOther : Prop :=
  ∀ block key : Block,
    invCipher (cipher block (keyExpansion key)) (keyExpansion key) = block ∧
    cipher (invCipher block (keyExpansion key)) (keyExpansion key) = block

/-- 45_padding.md R212: the guard returns the raw unpad where it is not empty and the whole input with the
fallback flag where it is. -/
def Obligations.UnpadGuardFallsBackOnAnEmptyResult : Prop :=
  ∀ d : Bytes, d ≠ [] →
    ((1 ≤ (d.getLastD 0).toNat ∧ (d.getLastD 0).toNat < d.length) →
      unpadGuard d = (d.take (d.length - (d.getLastD 0).toNat), false)) ∧
    (((d.getLastD 0).toNat = 0 ∨ d.length ≤ (d.getLastD 0).toNat) → unpadGuard d = (d, true)) ∧
    (unpadRaw d = [] → unpadGuard d = (d, true)) ∧
    (unpadRaw d ≠ [] → unpadGuard d = (unpadRaw d, false)) ∧
    (unpadGuard d).1 ≠ [] ∧ (unpadGuard d).1 <+: d

/-- 45_padding.md section 1 (R210, R216): padding appends n = 16 - (len mod 16) bytes, each equal to n; the
padded length; and that the guarded unpad gives a non-empty message back, but not the empty one. -/
def Obligations.PaddingRoundTrip : Prop :=
  (∀ (m : Bytes) (n : Nat), n = 16 - m.length % 16 →
    padBytes m = m ++ List.replicate n (BitVec.ofNat 8 n) ∧ 1 ≤ n ∧ n ≤ 16) ∧
  (∀ m : Bytes, (padBytes m).length % 16 = 0 ∧ m.length + 1 ≤ (padBytes m).length ∧
    (padBytes m).length ≤ m.length + 16) ∧
  (∀ m : Bytes, m ≠ [] → unpadGuard (padBytes m) = (m, false)) ∧
  unpadGuard (padBytes []) = (List.replicate 16 0x10, true)

/-- 46_modes.md R233: CBC encryption of a block-aligned sequence gives as many bytes; each ciphertext block is
Cipher of its plaintext block XOR the previous ciphertext block, or IV for the first; and `previous` ends as the last
ciphertext block, or IV where there is none. -/
def Obligations.CbcEncryptionChains : Prop :=
  ∀ (d rk c : Bytes) (iv previous : Block), d.length % 16 = 0 →
    cbcEncBytes d rk iv = (c, previous) →
    c.length = d.length ∧
    (∀ j : Nat, 16 * j < d.length →
      slice c (16 * j) 16 =
        blockBytes (cipher (xorBlock (blockOfBytes (slice d (16 * j) 16))
          (if j = 0 then iv else blockOfBytes (slice c (16 * (j - 1)) 16))) rk)) ∧
    previous = if d = [] then iv else blockOfBytes (slice c (c.length - 16) 16)

/-- 46_modes.md R235: CBC decryption of a block-aligned sequence gives as many bytes; each plaintext block
is InvCipher of its ciphertext block XOR the previous ciphertext block, or IV for the first; `previous` ends as the last
ciphertext block, or IV where there is none; and `last` is the last block's InvCipher output. -/
def Obligations.CbcDecryptionChains : Prop :=
  ∀ (c rk p : Bytes) (iv previous : Block), c.length % 16 = 0 →
    cbcDecBytes c rk iv = (p, previous) →
    p.length = c.length ∧
    (∀ j : Nat, 16 * j < c.length →
      slice p (16 * j) 16 =
        blockBytes (xorBlock (invCipher (blockOfBytes (slice c (16 * j) 16)) rk)
          (if j = 0 then iv else blockOfBytes (slice c (16 * (j - 1)) 16)))) ∧
    (previous = if c = [] then iv else blockOfBytes (slice c (c.length - 16) 16)) ∧
    (c ≠ [] → cbcDecLast c rk = invCipher (blockOfBytes (slice c (c.length - 16) 16)) rk)

/-- 46_modes.md section 3 (R237): exactly when decrypting an encrypted non-empty message gives it back, in
both modes. -/
def Obligations.ModeRoundTrips : Prop :=
  ∀ (m : Bytes) (key iv : Block) (p : Bytes), m ≠ [] →
    (p = ecbDecBytes (ecbEncBytes (prepare m) (keyExpansion key)) (keyExpansion key) ∨
      p = (cbcDecBytes (cbcEncBytes (prepare m) (keyExpansion key) iv).1 (keyExpansion key) iv).1) →
    (m.length % 16 ≠ 0 → unpadGuard p = (m, false)) ∧
    (m.length % 16 = 0 → ((m.getLastD 0).toNat = 0 ∨ m.length ≤ (m.getLastD 0).toNat) →
      unpadGuard p = (m, true)) ∧
    (m.length % 16 = 0 → ¬ ((m.getLastD 0).toNat = 0 ∨ m.length ≤ (m.getLastD 0).toNat) →
      unpadGuard p = (m.take (m.length - (m.getLastD 0).toNat), false))

/-- 46_modes.md section 3 (R240): equal plaintext blocks give equal ciphertext blocks in ECB. -/
def Obligations.EcbIsDeterministicPerBlock : Prop :=
  ∀ (d rk : Bytes) (j k : Nat), d.length % 16 = 0 → 16 * j + 16 ≤ d.length →
    16 * k + 16 ≤ d.length → slice d (16 * j) 16 = slice d (16 * k) 16 →
    slice (ecbEncBytes d rk) (16 * j) 16 = slice (ecbEncBytes d rk) (16 * k) 16 ∧
    (slice (ecbEncBytes d rk) (16 * j) 16).length = 16
end

