-- ==== Sys2Proof/Laws/Blocks.lean ====
section
/-! SUPPORT. Blocks, slices and packed words: their bytes, their lengths and the round trips between the forms. -/

namespace Sys2Proof.Machine

/-! ## Words -/

theorem wordByte_packWord_0 (a b c d : Byte) : wordByte (packWord a b c d) 0 = a := by
  ext i hi
  have : i < 8 := hi
  simp [wordByte, packWord]
  interval_cases i <;> simp

theorem wordByte_packWord_1 (a b c d : Byte) : wordByte (packWord a b c d) 1 = b := by
  ext i hi
  have : i < 8 := hi
  simp [wordByte, packWord]
  interval_cases i <;> simp

theorem wordByte_packWord_2 (a b c d : Byte) : wordByte (packWord a b c d) 2 = c := by
  ext i hi
  have : i < 8 := hi
  simp [wordByte, packWord]
  interval_cases i <;> simp

theorem wordByte_packWord_3 (a b c d : Byte) : wordByte (packWord a b c d) 3 = d := by
  ext i hi
  have : i < 8 := hi
  simp [wordByte, packWord]
  interval_cases i <;> simp

/-- A packed word holds byte j in its bits [8j+7 : 8j] (R61). -/
theorem wordByte_packWord (f : Fin 4 → Byte) (j : Fin 4) :
    wordByte (packWord (f 0) (f 1) (f 2) (f 3)) j.val = f j := by
  match j with
  | 0 => exact wordByte_packWord_0 ..
  | 1 => exact wordByte_packWord_1 ..
  | 2 => exact wordByte_packWord_2 ..
  | 3 => exact wordByte_packWord_3 ..

/-! ## Blocks -/

/-- Two blocks with the same sixteen bytes are the same block. -/
theorem block_ext {s t : Block} (h : ∀ i : Fin 16, s[i.val] = t[i.val]) : s = t :=
  Vector.ext fun i hi => h ⟨i, hi⟩

@[simp] theorem xorBlock_get (s k : Block) (i : Nat) (h : i < 16) :
    (xorBlock s k)[i] = s[i] ^^^ k[i] := by
  simp [xorBlock]

@[simp] theorem blockOfBytes_get (d : Bytes) (i : Nat) (h : i < 16) :
    (blockOfBytes d)[i] = d.getD i 0 := by
  simp [blockOfBytes]

@[simp] theorem setBlockWord_get (b : Block) (k : Fin 4) (w : Word) (i : Nat) (h : i < 16) :
    (setBlockWord b k w)[i] = if i / 4 = k.val then wordByte w (i % 4) else b[i] := by
  simp [setBlockWord]

@[simp] theorem subBytes_get (s : Block) (i : Nat) (h : i < 16) : (subBytes s)[i] = sBox s[i] := by
  simp [subBytes]

@[simp] theorem invSubBytes_get (s : Block) (i : Nat) (h : i < 16) :
    (invSubBytes s)[i] = invSBox s[i] := by
  simp [invSubBytes]

@[simp] theorem blockBytes_length (b : Block) : (blockBytes b).length = 16 := by
  simp [blockBytes]

@[simp] theorem blockBytes_getD (b : Block) (i : Nat) (h : i < 16) : (blockBytes b).getD i 0 = b[i] := by
  simp [blockBytes, List.getD, h]

/-- Reading a block back from its bytes gives the block. -/
@[simp] theorem blockOfBytes_blockBytes (b : Block) : blockOfBytes (blockBytes b) = b :=
  block_ext fun i => by rw [blockOfBytes_get _ _ i.2, blockBytes_getD _ _ i.2]

/-- Sixteen bytes are the bytes of their block. -/
theorem blockBytes_blockOfBytes {d : Bytes} (h : d.length = 16) : blockBytes (blockOfBytes d) = d := by
  apply List.ext_getElem
  · simp [h]
  · intro i h1 h2
    simp [blockBytes, blockOfBytes, h2]

/-- Word k of a register group after a write of its word j (R61). -/
theorem setBlockWord_blockWord (b : Block) (k : Fin 4) : setBlockWord b k (blockWord b k) = b := by
  apply block_ext
  intro i
  rw [setBlockWord_get _ _ _ _ i.2]
  split
  · rename_i h
    have := wordByte_packWord (fun j => b[4 * k.val + j.val]) ⟨i.val % 4, by omega⟩
    simp only [Fin.isValue, Fin.val_zero, Fin.val_one, Fin.val_two, Nat.add_zero] at this
    unfold blockWord
    refine Eq.trans this ?_
    congr 1
    omega
  · rfl

/-! ## The XOR of blocks -/

theorem xorBlock_comm (s k : Block) : xorBlock s k = xorBlock k s :=
  block_ext fun i => by simp [BitVec.xor_comm]

/-- XOR with the same block twice gives the first block back. -/
@[simp] theorem xorBlock_xorBlock (s k : Block) : xorBlock (xorBlock s k) k = s :=
  block_ext fun i => by simp

/-! ## Slices -/

theorem slice_length (d : Bytes) (a n : Nat) : (slice d a n).length = min n (d.length - a) := by
  simp [slice]

theorem slice_getD (d : Bytes) (a n i : Nat) (h : i < n) :
    (slice d a n).getD i 0 = d.getD (a + i) 0 := by
  simp [slice, List.getD, h]

/-! ## Block lists -/

@[simp] theorem joinBlocks_nil : joinBlocks [] = [] := rfl

@[simp] theorem joinBlocks_cons (b : Block) (bs : List Block) :
    joinBlocks (b :: bs) = blockBytes b ++ joinBlocks bs := by
  simp [joinBlocks]

@[simp] theorem joinBlocks_length (bs : List Block) : (joinBlocks bs).length = 16 * bs.length := by
  induction bs with
  | nil => rfl
  | cons b bs ih => simp [ih]; omega

@[simp] theorem takeBlocks_length (n : Nat) (d : Bytes) : (takeBlocks n d).length = n := by
  induction n generalizing d with
  | zero => rfl
  | succ n ih => simp [takeBlocks, ih]

@[simp] theorem blocks_length (d : Bytes) : (blocks d).length = d.length / 16 := takeBlocks_length ..

/-- Block j of a sequence is its bytes [16j, 16j+16). -/
theorem takeBlocks_get (n : Nat) (d : Bytes) (j : Nat) (h : j < (takeBlocks n d).length) :
    (takeBlocks n d)[j] = blockOfBytes (slice d (16 * j) 16) := by
  induction n generalizing d j with
  | zero => simp [takeBlocks] at h
  | succ n ih =>
    cases j with
    | zero => simp [takeBlocks, slice]
    | succ j =>
      simp only [takeBlocks, List.getElem_cons_succ]
      rw [ih]
      simp [slice, Nat.mul_add, Nat.add_comm]

theorem blocks_get (d : Bytes) (j : Nat) (h : j < (blocks d).length) :
    (blocks d)[j] = blockOfBytes (slice d (16 * j) 16) := takeBlocks_get _ _ _ h

/-- Splitting joined blocks gives them back. -/
@[simp] theorem blocks_joinBlocks (bs : List Block) : blocks (joinBlocks bs) = bs := by
  have h : ∀ bs : List Block, takeBlocks bs.length (joinBlocks bs) = bs := by
    intro bs
    induction bs with
    | nil => rfl
    | cons b bs ih => simp [takeBlocks, ih]
  unfold blocks
  rw [joinBlocks_length, Nat.mul_div_cancel_left _ (by omega), h]

/-- Joining the blocks of a block-aligned sequence gives it back. -/
theorem joinBlocks_blocks {d : Bytes} (h : d.length % 16 = 0) : joinBlocks (blocks d) = d := by
  have key : ∀ n (d : Bytes), d.length = 16 * n → joinBlocks (takeBlocks n d) = d := by
    intro n
    induction n with
    | zero => intro d hd; simp_all [takeBlocks]
    | succ n ih =>
      intro d hd
      simp only [takeBlocks, joinBlocks_cons]
      rw [ih _ (by simp; omega), blockBytes_blockOfBytes (by simp; omega)]
      simp
  exact key _ _ (by omega)

/-! ## Lengths of the modes' outputs -/

/-- Block j of joined blocks, as bytes. -/
theorem slice_joinBlocks (bs : List Block) (j : Nat) (h : j < bs.length) :
    slice (joinBlocks bs) (16 * j) 16 = blockBytes bs[j] := by
  induction bs generalizing j with
  | nil => simp at h
  | cons b bs ih =>
    cases j with
    | zero => simp [slice]
    | succ j =>
      have hj : j < bs.length := by simpa using h
      have hd : (blockBytes b ++ joinBlocks bs).drop (16 * (j + 1)) = (joinBlocks bs).drop (16 * j) := by
        rw [List.drop_append, List.drop_eq_nil_of_le (by rw [blockBytes_length]; omega), List.nil_append,
          blockBytes_length, show 16 * (j + 1) - 16 = 16 * j by omega]
      rw [joinBlocks_cons, slice, hd]
      simpa [slice] using ih j hj

/-- Each block of an ECB encryption is the Cipher of its own block (46_modes.md R231). -/
theorem slice_ecbEncBytes (d rk : Bytes) (j : Nat) (h : j < d.length / 16) :
    slice (ecbEncBytes d rk) (16 * j) 16 = blockBytes (cipher (blockOfBytes (slice d (16 * j) 16)) rk) := by
  rw [ecbEncBytes, slice_joinBlocks _ _ (by simpa using h), List.getElem_map, blocks_get]

/-- Each block of an ECB decryption is the InvCipher of its own block (46_modes.md R232). -/
theorem slice_ecbDecBytes (c rk : Bytes) (j : Nat) (h : j < c.length / 16) :
    slice (ecbDecBytes c rk) (16 * j) 16 = blockBytes (invCipher (blockOfBytes (slice c (16 * j) 16)) rk) := by
  rw [ecbDecBytes, slice_joinBlocks _ _ (by simpa using h), List.getElem_map, blocks_get]

@[simp] theorem ecbEncBytes_length (d rk : Bytes) :
    (ecbEncBytes d rk).length = 16 * (d.length / 16) := by
  simp [ecbEncBytes]

@[simp] theorem ecbDecBytes_length (d rk : Bytes) :
    (ecbDecBytes d rk).length = 16 * (d.length / 16) := by
  simp [ecbDecBytes]

@[simp] theorem cbcEncBlocks_length (rk : Bytes) (v : Block) (bs : List Block) :
    (cbcEncBlocks rk v bs).1.length = bs.length := by
  induction bs generalizing v with
  | nil => rfl
  | cons b bs ih => simp [cbcEncBlocks, ih]

@[simp] theorem cbcDecBlocks_length (rk : Bytes) (v : Block) (bs : List Block) :
    (cbcDecBlocks rk v bs).1.length = bs.length := by
  induction bs generalizing v with
  | nil => rfl
  | cons b bs ih => simp [cbcDecBlocks, ih]

@[simp] theorem cbcEncBytes_length (d rk : Bytes) (iv : Block) :
    (cbcEncBytes d rk iv).1.length = 16 * (d.length / 16) := by
  simp [cbcEncBytes]

@[simp] theorem cbcDecBytes_length (d rk : Bytes) (iv : Block) :
    (cbcDecBytes d rk iv).1.length = 16 * (d.length / 16) := by
  simp [cbcDecBytes]

@[simp] theorem padBytes_length (d : Bytes) : (padBytes d).length = 16 * (d.length / 16 + 1) := by
  simp [padBytes, padCount]; omega

theorem prepare_length (m : Bytes) : (prepare m).length = 16 * ((m.length + 15) / 16) := by
  unfold prepare
  split
  · rw [padBytes_length]; omega
  · omega

theorem unpadGuard_length_le (d : Bytes) : (unpadGuard d).1.length ≤ d.length := by
  unfold unpadGuard
  split
  · simp
  · simp

/-! ## The key schedule's length -/

theorem appendWord_length (w : Bytes) : (appendWord w).length = w.length + 4 := by
  simp [appendWord]

theorem appendWords_length (n : Nat) (w : Bytes) : (appendWords n w).length = w.length + 4 * n := by
  induction n generalizing w with
  | zero => rfl
  | succ n ih => rw [appendWords, ih, appendWord_length]; omega

@[simp] theorem keyExpansion_length (key : Block) : (keyExpansion key).length = 176 := by
  rw [keyExpansion, appendWords_length, blockBytes_length]

end Sys2Proof.Machine
end

