-- ==== Sys2Proof/Laws/State.lean ====
section
/-! SUPPORT. What each shared update of the state leaves in each field: one lemma per field per update, true by
rfl, so that no later proof unfolds a record update. -/

namespace Sys2Proof.Machine

/-! ## storeWord -/

@[simp] theorem storeWord_bufBlocks (w : Word) (s : State) : (storeWord w s).bufBlocks = s.bufBlocks := rfl
@[simp] theorem storeWord_irqEn (w : Word) (s : State) : (storeWord w s).irqEn = s.irqEn := rfl
@[simp] theorem storeWord_cmd (w : Word) (s : State) : (storeWord w s).cmd = w := rfl
@[simp] theorem storeWord_status (w : Word) (s : State) : (storeWord w s).status = s.status.stored := rfl
@[simp] theorem storeWord_keyLen (w : Word) (s : State) : (storeWord w s).keyLen = s.keyLen := rfl
@[simp] theorem storeWord_inLen (w : Word) (s : State) : (storeWord w s).inLen = s.inLen := rfl
@[simp] theorem storeWord_outLen (w : Word) (s : State) : (storeWord w s).outLen = s.outLen := rfl
@[simp] theorem storeWord_gf (w : Word) (s : State) : (storeWord w s).gf = s.gf := rfl
@[simp] theorem storeWord_key (w : Word) (s : State) : (storeWord w s).key = s.key := rfl
@[simp] theorem storeWord_iv (w : Word) (s : State) : (storeWord w s).iv = s.iv := rfl
@[simp] theorem storeWord_cipherState (w : Word) (s : State) : (storeWord w s).cipherState = s.cipherState := rfl
@[simp] theorem storeWord_chain (w : Word) (s : State) : (storeWord w s).chain = s.chain := rfl
@[simp] theorem storeWord_mem (w : Word) (s : State) : (storeWord w s).mem = s.mem := rfl
@[simp] theorem storeWord_ctl (w : Word) (s : State) : (storeWord w s).ctl = s.ctl := rfl
@[simp] theorem storeWord_inReset (w : Word) (s : State) : (storeWord w s).inReset = s.inReset := rfl
@[simp] theorem storeWord_inputs (w : Word) (s : State) : (storeWord w s).inputs = s.inputs := rfl
@[simp] theorem storeWord_reply (w : Word) (s : State) : (storeWord w s).reply = s.reply := rfl
@[simp] theorem storeWord_epoch (w : Word) (s : State) : (storeWord w s).epoch = s.epoch := rfl
@[simp] theorem storeWord_draws (w : Word) (s : State) : (storeWord w s).draws = s.draws := rfl

/-! ## raiseError -/

@[simp] theorem raiseError_bufBlocks (e : ErrCode) (s : State) : (raiseError e s).bufBlocks = s.bufBlocks := rfl
@[simp] theorem raiseError_irqEn (e : ErrCode) (s : State) : (raiseError e s).irqEn = s.irqEn := rfl
@[simp] theorem raiseError_cmd (e : ErrCode) (s : State) : (raiseError e s).cmd = s.cmd := rfl
@[simp] theorem raiseError_status (e : ErrCode) (s : State) : (raiseError e s).status = s.status.failed e := rfl
@[simp] theorem raiseError_keyLen (e : ErrCode) (s : State) : (raiseError e s).keyLen = s.keyLen := rfl
@[simp] theorem raiseError_inLen (e : ErrCode) (s : State) : (raiseError e s).inLen = s.inLen := rfl
@[simp] theorem raiseError_outLen (e : ErrCode) (s : State) : (raiseError e s).outLen = s.outLen := rfl
@[simp] theorem raiseError_gf (e : ErrCode) (s : State) : (raiseError e s).gf = s.gf := rfl
@[simp] theorem raiseError_key (e : ErrCode) (s : State) : (raiseError e s).key = s.key := rfl
@[simp] theorem raiseError_iv (e : ErrCode) (s : State) : (raiseError e s).iv = s.iv := rfl
@[simp] theorem raiseError_cipherState (e : ErrCode) (s : State) : (raiseError e s).cipherState = s.cipherState := rfl
@[simp] theorem raiseError_chain (e : ErrCode) (s : State) : (raiseError e s).chain = s.chain := rfl
@[simp] theorem raiseError_mem (e : ErrCode) (s : State) : (raiseError e s).mem = s.mem := rfl
@[simp] theorem raiseError_ctl (e : ErrCode) (s : State) : (raiseError e s).ctl = Controller.idle := rfl
@[simp] theorem raiseError_inReset (e : ErrCode) (s : State) : (raiseError e s).inReset = s.inReset := rfl
@[simp] theorem raiseError_inputs (e : ErrCode) (s : State) : (raiseError e s).inputs = s.inputs := rfl
@[simp] theorem raiseError_reply (e : ErrCode) (s : State) : (raiseError e s).reply = s.reply := rfl
@[simp] theorem raiseError_epoch (e : ErrCode) (s : State) : (raiseError e s).epoch = s.epoch := rfl
@[simp] theorem raiseError_draws (e : ErrCode) (s : State) : (raiseError e s).draws = s.draws := rfl

/-! ## finish -/

@[simp] theorem finish_bufBlocks (s : State) : (finish s).bufBlocks = s.bufBlocks := rfl
@[simp] theorem finish_irqEn (s : State) : (finish s).irqEn = s.irqEn := rfl
@[simp] theorem finish_cmd (s : State) : (finish s).cmd = s.cmd := rfl
@[simp] theorem finish_status (s : State) : (finish s).status = s.status.completed := rfl
@[simp] theorem finish_keyLen (s : State) : (finish s).keyLen = s.keyLen := rfl
@[simp] theorem finish_inLen (s : State) : (finish s).inLen = s.inLen := rfl
@[simp] theorem finish_outLen (s : State) : (finish s).outLen = s.outLen := rfl
@[simp] theorem finish_gf (s : State) : (finish s).gf = s.gf := rfl
@[simp] theorem finish_key (s : State) : (finish s).key = s.key := rfl
@[simp] theorem finish_iv (s : State) : (finish s).iv = s.iv := rfl
@[simp] theorem finish_cipherState (s : State) : (finish s).cipherState = s.cipherState := rfl
@[simp] theorem finish_chain (s : State) : (finish s).chain = s.chain := rfl
@[simp] theorem finish_mem (s : State) : (finish s).mem = s.mem := rfl
@[simp] theorem finish_ctl (s : State) : (finish s).ctl = Controller.idle := rfl
@[simp] theorem finish_inReset (s : State) : (finish s).inReset = s.inReset := rfl
@[simp] theorem finish_inputs (s : State) : (finish s).inputs = s.inputs := rfl
@[simp] theorem finish_reply (s : State) : (finish s).reply = s.reply := rfl
@[simp] theorem finish_epoch (s : State) : (finish s).epoch = s.epoch := rfl
@[simp] theorem finish_draws (s : State) : (finish s).draws = s.draws := rfl

/-! ## memWrite -/

@[simp] theorem memWrite_bufBlocks (sp : Space) (off : Nat) (v : Bytes) (s : State) : (memWrite sp off v s).bufBlocks = s.bufBlocks := rfl
@[simp] theorem memWrite_irqEn (sp : Space) (off : Nat) (v : Bytes) (s : State) : (memWrite sp off v s).irqEn = s.irqEn := rfl
@[simp] theorem memWrite_cmd (sp : Space) (off : Nat) (v : Bytes) (s : State) : (memWrite sp off v s).cmd = s.cmd := rfl
@[simp] theorem memWrite_status (sp : Space) (off : Nat) (v : Bytes) (s : State) : (memWrite sp off v s).status = s.status := rfl
@[simp] theorem memWrite_keyLen (sp : Space) (off : Nat) (v : Bytes) (s : State) : (memWrite sp off v s).keyLen = s.keyLen := rfl
@[simp] theorem memWrite_inLen (sp : Space) (off : Nat) (v : Bytes) (s : State) : (memWrite sp off v s).inLen = s.inLen := rfl
@[simp] theorem memWrite_outLen (sp : Space) (off : Nat) (v : Bytes) (s : State) : (memWrite sp off v s).outLen = s.outLen := rfl
@[simp] theorem memWrite_gf (sp : Space) (off : Nat) (v : Bytes) (s : State) : (memWrite sp off v s).gf = s.gf := rfl
@[simp] theorem memWrite_key (sp : Space) (off : Nat) (v : Bytes) (s : State) : (memWrite sp off v s).key = s.key := rfl
@[simp] theorem memWrite_iv (sp : Space) (off : Nat) (v : Bytes) (s : State) : (memWrite sp off v s).iv = s.iv := rfl
@[simp] theorem memWrite_cipherState (sp : Space) (off : Nat) (v : Bytes) (s : State) : (memWrite sp off v s).cipherState = s.cipherState := rfl
@[simp] theorem memWrite_chain (sp : Space) (off : Nat) (v : Bytes) (s : State) : (memWrite sp off v s).chain = s.chain := rfl
@[simp] theorem memWrite_mem (sp : Space) (off : Nat) (v : Bytes) (s : State) : (memWrite sp off v s).mem = memSetBytes s.mem (sp.base + off) v := rfl
@[simp] theorem memWrite_ctl (sp : Space) (off : Nat) (v : Bytes) (s : State) : (memWrite sp off v s).ctl = s.ctl := rfl
@[simp] theorem memWrite_inReset (sp : Space) (off : Nat) (v : Bytes) (s : State) : (memWrite sp off v s).inReset = s.inReset := rfl
@[simp] theorem memWrite_inputs (sp : Space) (off : Nat) (v : Bytes) (s : State) : (memWrite sp off v s).inputs = s.inputs := rfl
@[simp] theorem memWrite_reply (sp : Space) (off : Nat) (v : Bytes) (s : State) : (memWrite sp off v s).reply = s.reply := rfl
@[simp] theorem memWrite_epoch (sp : Space) (off : Nat) (v : Bytes) (s : State) : (memWrite sp off v s).epoch = s.epoch := rfl
@[simp] theorem memWrite_draws (sp : Space) (off : Nat) (v : Bytes) (s : State) : (memWrite sp off v s).draws = s.draws := rfl

/-! ## setCipherState -/

@[simp] theorem setCipherState_bufBlocks (v : Block) (s : State) : (setCipherState v s).bufBlocks = s.bufBlocks := rfl
@[simp] theorem setCipherState_irqEn (v : Block) (s : State) : (setCipherState v s).irqEn = s.irqEn := rfl
@[simp] theorem setCipherState_cmd (v : Block) (s : State) : (setCipherState v s).cmd = s.cmd := rfl
@[simp] theorem setCipherState_status (v : Block) (s : State) : (setCipherState v s).status = s.status := rfl
@[simp] theorem setCipherState_keyLen (v : Block) (s : State) : (setCipherState v s).keyLen = s.keyLen := rfl
@[simp] theorem setCipherState_inLen (v : Block) (s : State) : (setCipherState v s).inLen = s.inLen := rfl
@[simp] theorem setCipherState_outLen (v : Block) (s : State) : (setCipherState v s).outLen = s.outLen := rfl
@[simp] theorem setCipherState_gf (v : Block) (s : State) : (setCipherState v s).gf = s.gf := rfl
@[simp] theorem setCipherState_key (v : Block) (s : State) : (setCipherState v s).key = s.key := rfl
@[simp] theorem setCipherState_iv (v : Block) (s : State) : (setCipherState v s).iv = s.iv := rfl
@[simp] theorem setCipherState_cipherState (v : Block) (s : State) : (setCipherState v s).cipherState = v := rfl
@[simp] theorem setCipherState_chain (v : Block) (s : State) : (setCipherState v s).chain = s.chain := rfl
@[simp] theorem setCipherState_mem (v : Block) (s : State) : (setCipherState v s).mem = s.mem := rfl
@[simp] theorem setCipherState_ctl (v : Block) (s : State) : (setCipherState v s).ctl = s.ctl := rfl
@[simp] theorem setCipherState_inReset (v : Block) (s : State) : (setCipherState v s).inReset = s.inReset := rfl
@[simp] theorem setCipherState_inputs (v : Block) (s : State) : (setCipherState v s).inputs = s.inputs := rfl
@[simp] theorem setCipherState_reply (v : Block) (s : State) : (setCipherState v s).reply = s.reply := rfl
@[simp] theorem setCipherState_epoch (v : Block) (s : State) : (setCipherState v s).epoch = s.epoch := rfl
@[simp] theorem setCipherState_draws (v : Block) (s : State) : (setCipherState v s).draws = s.draws := rfl

/-! ## setChain -/

@[simp] theorem setChain_bufBlocks (v : Block) (s : State) : (setChain v s).bufBlocks = s.bufBlocks := rfl
@[simp] theorem setChain_irqEn (v : Block) (s : State) : (setChain v s).irqEn = s.irqEn := rfl
@[simp] theorem setChain_cmd (v : Block) (s : State) : (setChain v s).cmd = s.cmd := rfl
@[simp] theorem setChain_status (v : Block) (s : State) : (setChain v s).status = s.status := rfl
@[simp] theorem setChain_keyLen (v : Block) (s : State) : (setChain v s).keyLen = s.keyLen := rfl
@[simp] theorem setChain_inLen (v : Block) (s : State) : (setChain v s).inLen = s.inLen := rfl
@[simp] theorem setChain_outLen (v : Block) (s : State) : (setChain v s).outLen = s.outLen := rfl
@[simp] theorem setChain_gf (v : Block) (s : State) : (setChain v s).gf = s.gf := rfl
@[simp] theorem setChain_key (v : Block) (s : State) : (setChain v s).key = s.key := rfl
@[simp] theorem setChain_iv (v : Block) (s : State) : (setChain v s).iv = s.iv := rfl
@[simp] theorem setChain_cipherState (v : Block) (s : State) : (setChain v s).cipherState = s.cipherState := rfl
@[simp] theorem setChain_chain (v : Block) (s : State) : (setChain v s).chain = v := rfl
@[simp] theorem setChain_mem (v : Block) (s : State) : (setChain v s).mem = s.mem := rfl
@[simp] theorem setChain_ctl (v : Block) (s : State) : (setChain v s).ctl = s.ctl := rfl
@[simp] theorem setChain_inReset (v : Block) (s : State) : (setChain v s).inReset = s.inReset := rfl
@[simp] theorem setChain_inputs (v : Block) (s : State) : (setChain v s).inputs = s.inputs := rfl
@[simp] theorem setChain_reply (v : Block) (s : State) : (setChain v s).reply = s.reply := rfl
@[simp] theorem setChain_epoch (v : Block) (s : State) : (setChain v s).epoch = s.epoch := rfl
@[simp] theorem setChain_draws (v : Block) (s : State) : (setChain v s).draws = s.draws := rfl

/-! ## setProduct -/

@[simp] theorem setProduct_bufBlocks (v : Byte) (s : State) : (setProduct v s).bufBlocks = s.bufBlocks := rfl
@[simp] theorem setProduct_irqEn (v : Byte) (s : State) : (setProduct v s).irqEn = s.irqEn := rfl
@[simp] theorem setProduct_cmd (v : Byte) (s : State) : (setProduct v s).cmd = s.cmd := rfl
@[simp] theorem setProduct_status (v : Byte) (s : State) : (setProduct v s).status = s.status := rfl
@[simp] theorem setProduct_keyLen (v : Byte) (s : State) : (setProduct v s).keyLen = s.keyLen := rfl
@[simp] theorem setProduct_inLen (v : Byte) (s : State) : (setProduct v s).inLen = s.inLen := rfl
@[simp] theorem setProduct_outLen (v : Byte) (s : State) : (setProduct v s).outLen = s.outLen := rfl
@[simp] theorem setProduct_gf (v : Byte) (s : State) : (setProduct v s).gf = { s.gf with p := v } := rfl
@[simp] theorem setProduct_key (v : Byte) (s : State) : (setProduct v s).key = s.key := rfl
@[simp] theorem setProduct_iv (v : Byte) (s : State) : (setProduct v s).iv = s.iv := rfl
@[simp] theorem setProduct_cipherState (v : Byte) (s : State) : (setProduct v s).cipherState = s.cipherState := rfl
@[simp] theorem setProduct_chain (v : Byte) (s : State) : (setProduct v s).chain = s.chain := rfl
@[simp] theorem setProduct_mem (v : Byte) (s : State) : (setProduct v s).mem = s.mem := rfl
@[simp] theorem setProduct_ctl (v : Byte) (s : State) : (setProduct v s).ctl = s.ctl := rfl
@[simp] theorem setProduct_inReset (v : Byte) (s : State) : (setProduct v s).inReset = s.inReset := rfl
@[simp] theorem setProduct_inputs (v : Byte) (s : State) : (setProduct v s).inputs = s.inputs := rfl
@[simp] theorem setProduct_reply (v : Byte) (s : State) : (setProduct v s).reply = s.reply := rfl
@[simp] theorem setProduct_epoch (v : Byte) (s : State) : (setProduct v s).epoch = s.epoch := rfl
@[simp] theorem setProduct_draws (v : Byte) (s : State) : (setProduct v s).draws = s.draws := rfl

/-! ## setPadFallback -/

@[simp] theorem setPadFallback_bufBlocks (f : Bool) (s : State) : (setPadFallback f s).bufBlocks = s.bufBlocks := rfl
@[simp] theorem setPadFallback_irqEn (f : Bool) (s : State) : (setPadFallback f s).irqEn = s.irqEn := rfl
@[simp] theorem setPadFallback_cmd (f : Bool) (s : State) : (setPadFallback f s).cmd = s.cmd := rfl
@[simp] theorem setPadFallback_status (f : Bool) (s : State) : (setPadFallback f s).status = { s.status with padFallback := f } := rfl
@[simp] theorem setPadFallback_keyLen (f : Bool) (s : State) : (setPadFallback f s).keyLen = s.keyLen := rfl
@[simp] theorem setPadFallback_inLen (f : Bool) (s : State) : (setPadFallback f s).inLen = s.inLen := rfl
@[simp] theorem setPadFallback_outLen (f : Bool) (s : State) : (setPadFallback f s).outLen = s.outLen := rfl
@[simp] theorem setPadFallback_gf (f : Bool) (s : State) : (setPadFallback f s).gf = s.gf := rfl
@[simp] theorem setPadFallback_key (f : Bool) (s : State) : (setPadFallback f s).key = s.key := rfl
@[simp] theorem setPadFallback_iv (f : Bool) (s : State) : (setPadFallback f s).iv = s.iv := rfl
@[simp] theorem setPadFallback_cipherState (f : Bool) (s : State) : (setPadFallback f s).cipherState = s.cipherState := rfl
@[simp] theorem setPadFallback_chain (f : Bool) (s : State) : (setPadFallback f s).chain = s.chain := rfl
@[simp] theorem setPadFallback_mem (f : Bool) (s : State) : (setPadFallback f s).mem = s.mem := rfl
@[simp] theorem setPadFallback_ctl (f : Bool) (s : State) : (setPadFallback f s).ctl = s.ctl := rfl
@[simp] theorem setPadFallback_inReset (f : Bool) (s : State) : (setPadFallback f s).inReset = s.inReset := rfl
@[simp] theorem setPadFallback_inputs (f : Bool) (s : State) : (setPadFallback f s).inputs = s.inputs := rfl
@[simp] theorem setPadFallback_reply (f : Bool) (s : State) : (setPadFallback f s).reply = s.reply := rfl
@[simp] theorem setPadFallback_epoch (f : Bool) (s : State) : (setPadFallback f s).epoch = s.epoch := rfl
@[simp] theorem setPadFallback_draws (f : Bool) (s : State) : (setPadFallback f s).draws = s.draws := rfl

/-! ## writeOutput -/

@[simp] theorem writeOutput_bufBlocks (v : Bytes) (n : Nat) (s : State) : (writeOutput v n s).bufBlocks = s.bufBlocks := rfl
@[simp] theorem writeOutput_irqEn (v : Bytes) (n : Nat) (s : State) : (writeOutput v n s).irqEn = s.irqEn := rfl
@[simp] theorem writeOutput_cmd (v : Bytes) (n : Nat) (s : State) : (writeOutput v n s).cmd = s.cmd := rfl
@[simp] theorem writeOutput_status (v : Bytes) (n : Nat) (s : State) : (writeOutput v n s).status = s.status := rfl
@[simp] theorem writeOutput_keyLen (v : Bytes) (n : Nat) (s : State) : (writeOutput v n s).keyLen = s.keyLen := rfl
@[simp] theorem writeOutput_inLen (v : Bytes) (n : Nat) (s : State) : (writeOutput v n s).inLen = s.inLen := rfl
@[simp] theorem writeOutput_outLen (v : Bytes) (n : Nat) (s : State) : (writeOutput v n s).outLen = BitVec.ofNat 32 n := rfl
@[simp] theorem writeOutput_gf (v : Bytes) (n : Nat) (s : State) : (writeOutput v n s).gf = s.gf := rfl
@[simp] theorem writeOutput_key (v : Bytes) (n : Nat) (s : State) : (writeOutput v n s).key = s.key := rfl
@[simp] theorem writeOutput_iv (v : Bytes) (n : Nat) (s : State) : (writeOutput v n s).iv = s.iv := rfl
@[simp] theorem writeOutput_cipherState (v : Bytes) (n : Nat) (s : State) : (writeOutput v n s).cipherState = s.cipherState := rfl
@[simp] theorem writeOutput_chain (v : Bytes) (n : Nat) (s : State) : (writeOutput v n s).chain = s.chain := rfl
@[simp] theorem writeOutput_mem (v : Bytes) (n : Nat) (s : State) : (writeOutput v n s).mem = memSetBytes s.mem 0x20000 v := rfl
@[simp] theorem writeOutput_ctl (v : Bytes) (n : Nat) (s : State) : (writeOutput v n s).ctl = s.ctl := rfl
@[simp] theorem writeOutput_inReset (v : Bytes) (n : Nat) (s : State) : (writeOutput v n s).inReset = s.inReset := rfl
@[simp] theorem writeOutput_inputs (v : Bytes) (n : Nat) (s : State) : (writeOutput v n s).inputs = s.inputs := rfl
@[simp] theorem writeOutput_reply (v : Bytes) (n : Nat) (s : State) : (writeOutput v n s).reply = s.reply := rfl
@[simp] theorem writeOutput_epoch (v : Bytes) (n : Nat) (s : State) : (writeOutput v n s).epoch = s.epoch := rfl
@[simp] theorem writeOutput_draws (v : Bytes) (n : Nat) (s : State) : (writeOutput v n s).draws = s.draws := rfl

/-! ## writeSchedule -/

@[simp] theorem writeSchedule_bufBlocks (rk : Bytes) (s : State) : (writeSchedule rk s).bufBlocks = s.bufBlocks := rfl
@[simp] theorem writeSchedule_irqEn (rk : Bytes) (s : State) : (writeSchedule rk s).irqEn = s.irqEn := rfl
@[simp] theorem writeSchedule_cmd (rk : Bytes) (s : State) : (writeSchedule rk s).cmd = s.cmd := rfl
@[simp] theorem writeSchedule_status (rk : Bytes) (s : State) : (writeSchedule rk s).status = s.status.keyExpanded := rfl
@[simp] theorem writeSchedule_keyLen (rk : Bytes) (s : State) : (writeSchedule rk s).keyLen = s.keyLen := rfl
@[simp] theorem writeSchedule_inLen (rk : Bytes) (s : State) : (writeSchedule rk s).inLen = s.inLen := rfl
@[simp] theorem writeSchedule_outLen (rk : Bytes) (s : State) : (writeSchedule rk s).outLen = s.outLen := rfl
@[simp] theorem writeSchedule_gf (rk : Bytes) (s : State) : (writeSchedule rk s).gf = s.gf := rfl
@[simp] theorem writeSchedule_key (rk : Bytes) (s : State) : (writeSchedule rk s).key = s.key := rfl
@[simp] theorem writeSchedule_iv (rk : Bytes) (s : State) : (writeSchedule rk s).iv = s.iv := rfl
@[simp] theorem writeSchedule_cipherState (rk : Bytes) (s : State) : (writeSchedule rk s).cipherState = s.cipherState := rfl
@[simp] theorem writeSchedule_chain (rk : Bytes) (s : State) : (writeSchedule rk s).chain = s.chain := rfl
@[simp] theorem writeSchedule_mem (rk : Bytes) (s : State) : (writeSchedule rk s).mem = memSetBytes s.mem 0x00100 rk := rfl
@[simp] theorem writeSchedule_ctl (rk : Bytes) (s : State) : (writeSchedule rk s).ctl = s.ctl := rfl
@[simp] theorem writeSchedule_inReset (rk : Bytes) (s : State) : (writeSchedule rk s).inReset = s.inReset := rfl
@[simp] theorem writeSchedule_inputs (rk : Bytes) (s : State) : (writeSchedule rk s).inputs = s.inputs := rfl
@[simp] theorem writeSchedule_reply (rk : Bytes) (s : State) : (writeSchedule rk s).reply = s.reply := rfl
@[simp] theorem writeSchedule_epoch (rk : Bytes) (s : State) : (writeSchedule rk s).epoch = s.epoch := rfl
@[simp] theorem writeSchedule_draws (rk : Bytes) (s : State) : (writeSchedule rk s).draws = s.draws := rfl

/-! ## acceptCommand -/

@[simp] theorem acceptCommand_bufBlocks (i : Instr) (s : State) : (acceptCommand i s).bufBlocks = s.bufBlocks := rfl
@[simp] theorem acceptCommand_irqEn (i : Instr) (s : State) : (acceptCommand i s).irqEn = s.irqEn := rfl
@[simp] theorem acceptCommand_cmd (i : Instr) (s : State) : (acceptCommand i s).cmd = s.cmd := rfl
@[simp] theorem acceptCommand_status (i : Instr) (s : State) : (acceptCommand i s).status = s.status.accepted := rfl
@[simp] theorem acceptCommand_keyLen (i : Instr) (s : State) : (acceptCommand i s).keyLen = s.keyLen := rfl
@[simp] theorem acceptCommand_inLen (i : Instr) (s : State) : (acceptCommand i s).inLen = s.inLen := rfl
@[simp] theorem acceptCommand_outLen (i : Instr) (s : State) : (acceptCommand i s).outLen = s.outLen := rfl
@[simp] theorem acceptCommand_gf (i : Instr) (s : State) : (acceptCommand i s).gf = s.gf := rfl
@[simp] theorem acceptCommand_key (i : Instr) (s : State) : (acceptCommand i s).key = s.key := rfl
@[simp] theorem acceptCommand_iv (i : Instr) (s : State) : (acceptCommand i s).iv = s.iv := rfl
@[simp] theorem acceptCommand_cipherState (i : Instr) (s : State) : (acceptCommand i s).cipherState = s.cipherState := rfl
@[simp] theorem acceptCommand_chain (i : Instr) (s : State) : (acceptCommand i s).chain = s.chain := rfl
@[simp] theorem acceptCommand_mem (i : Instr) (s : State) : (acceptCommand i s).mem = s.mem := rfl
@[simp] theorem acceptCommand_inReset (i : Instr) (s : State) : (acceptCommand i s).inReset = s.inReset := rfl
@[simp] theorem acceptCommand_inputs (i : Instr) (s : State) : (acceptCommand i s).inputs = s.inputs := rfl
@[simp] theorem acceptCommand_reply (i : Instr) (s : State) : (acceptCommand i s).reply = s.reply := rfl
@[simp] theorem acceptCommand_epoch (i : Instr) (s : State) : (acceptCommand i s).epoch = s.epoch := rfl
@[simp] theorem acceptCommand_draws (i : Instr) (s : State) : (acceptCommand i s).draws = s.draws := rfl

/-! ## assertReset -/

@[simp] theorem assertReset_bufBlocks (s : State) : (assertReset s).bufBlocks = s.bufBlocks := rfl
@[simp] theorem assertReset_irqEn (s : State) : (assertReset s).irqEn = false := rfl
@[simp] theorem assertReset_cmd (s : State) : (assertReset s).cmd = 0 := rfl
@[simp] theorem assertReset_status (s : State) : (assertReset s).status = Status.reset := rfl
@[simp] theorem assertReset_keyLen (s : State) : (assertReset s).keyLen = 0x10 := rfl
@[simp] theorem assertReset_inLen (s : State) : (assertReset s).inLen = 0 := rfl
@[simp] theorem assertReset_outLen (s : State) : (assertReset s).outLen = 0 := rfl
@[simp] theorem assertReset_gf (s : State) : (assertReset s).gf = { a := 0, b := 0, p := 0 } := rfl
@[simp] theorem assertReset_key (s : State) : (assertReset s).key = Vector.replicate 16 0 := rfl
@[simp] theorem assertReset_iv (s : State) : (assertReset s).iv = Vector.replicate 16 0 := rfl
@[simp] theorem assertReset_cipherState (s : State) : (assertReset s).cipherState = Vector.replicate 16 0 := rfl
@[simp] theorem assertReset_chain (s : State) : (assertReset s).chain = Vector.replicate 16 0 := rfl
@[simp] theorem assertReset_mem (s : State) : (assertReset s).mem = [] := rfl
@[simp] theorem assertReset_ctl (s : State) : (assertReset s).ctl = Controller.idle := rfl
@[simp] theorem assertReset_inReset (s : State) : (assertReset s).inReset = true := rfl
@[simp] theorem assertReset_inputs (s : State) : (assertReset s).inputs = s.inputs := rfl
@[simp] theorem assertReset_reply (s : State) : (assertReset s).reply = none := rfl
@[simp] theorem assertReset_epoch (s : State) : (assertReset s).epoch = s.epoch + 1 := rfl
@[simp] theorem assertReset_draws (s : State) : (assertReset s).draws = s.draws := rfl

/-! ## releaseReset -/

@[simp] theorem releaseReset_bufBlocks (s : State) : (releaseReset s).bufBlocks = s.bufBlocks := rfl
@[simp] theorem releaseReset_irqEn (s : State) : (releaseReset s).irqEn = s.irqEn := rfl
@[simp] theorem releaseReset_cmd (s : State) : (releaseReset s).cmd = s.cmd := rfl
@[simp] theorem releaseReset_status (s : State) : (releaseReset s).status = s.status := rfl
@[simp] theorem releaseReset_keyLen (s : State) : (releaseReset s).keyLen = s.keyLen := rfl
@[simp] theorem releaseReset_inLen (s : State) : (releaseReset s).inLen = s.inLen := rfl
@[simp] theorem releaseReset_outLen (s : State) : (releaseReset s).outLen = s.outLen := rfl
@[simp] theorem releaseReset_gf (s : State) : (releaseReset s).gf = s.gf := rfl
@[simp] theorem releaseReset_key (s : State) : (releaseReset s).key = s.key := rfl
@[simp] theorem releaseReset_iv (s : State) : (releaseReset s).iv = s.iv := rfl
@[simp] theorem releaseReset_cipherState (s : State) : (releaseReset s).cipherState = s.cipherState := rfl
@[simp] theorem releaseReset_chain (s : State) : (releaseReset s).chain = s.chain := rfl
@[simp] theorem releaseReset_mem (s : State) : (releaseReset s).mem = s.mem := rfl
@[simp] theorem releaseReset_ctl (s : State) : (releaseReset s).ctl = s.ctl := rfl
@[simp] theorem releaseReset_inReset (s : State) : (releaseReset s).inReset = false := rfl
@[simp] theorem releaseReset_inputs (s : State) : (releaseReset s).inputs = s.inputs := rfl
@[simp] theorem releaseReset_reply (s : State) : (releaseReset s).reply = s.reply := rfl
@[simp] theorem releaseReset_epoch (s : State) : (releaseReset s).epoch = s.epoch := rfl
@[simp] theorem releaseReset_draws (s : State) : (releaseReset s).draws = s.draws := rfl

/-! ## resetRead -/

@[simp] theorem resetRead_bufBlocks (s : State) : (resetRead s).bufBlocks = s.bufBlocks := rfl
@[simp] theorem resetRead_irqEn (s : State) : (resetRead s).irqEn = s.irqEn := rfl
@[simp] theorem resetRead_cmd (s : State) : (resetRead s).cmd = s.cmd := rfl
@[simp] theorem resetRead_status (s : State) : (resetRead s).status = s.status := rfl
@[simp] theorem resetRead_keyLen (s : State) : (resetRead s).keyLen = s.keyLen := rfl
@[simp] theorem resetRead_inLen (s : State) : (resetRead s).inLen = s.inLen := rfl
@[simp] theorem resetRead_outLen (s : State) : (resetRead s).outLen = s.outLen := rfl
@[simp] theorem resetRead_gf (s : State) : (resetRead s).gf = s.gf := rfl
@[simp] theorem resetRead_key (s : State) : (resetRead s).key = s.key := rfl
@[simp] theorem resetRead_iv (s : State) : (resetRead s).iv = s.iv := rfl
@[simp] theorem resetRead_cipherState (s : State) : (resetRead s).cipherState = s.cipherState := rfl
@[simp] theorem resetRead_chain (s : State) : (resetRead s).chain = s.chain := rfl
@[simp] theorem resetRead_mem (s : State) : (resetRead s).mem = s.mem := rfl
@[simp] theorem resetRead_ctl (s : State) : (resetRead s).ctl = s.ctl := rfl
@[simp] theorem resetRead_inReset (s : State) : (resetRead s).inReset = s.inReset := rfl
@[simp] theorem resetRead_inputs (s : State) : (resetRead s).inputs = s.inputs := rfl
@[simp] theorem resetRead_epoch (s : State) : (resetRead s).epoch = s.epoch := rfl
@[simp] theorem resetRead_draws (s : State) : (resetRead s).draws = s.draws + 1 := rfl

/-! ## resetWrite -/

@[simp] theorem resetWrite_bufBlocks (s : State) : (resetWrite s).bufBlocks = s.bufBlocks := rfl
@[simp] theorem resetWrite_irqEn (s : State) : (resetWrite s).irqEn = s.irqEn := rfl
@[simp] theorem resetWrite_cmd (s : State) : (resetWrite s).cmd = s.cmd := rfl
@[simp] theorem resetWrite_status (s : State) : (resetWrite s).status = s.status := rfl
@[simp] theorem resetWrite_keyLen (s : State) : (resetWrite s).keyLen = s.keyLen := rfl
@[simp] theorem resetWrite_inLen (s : State) : (resetWrite s).inLen = s.inLen := rfl
@[simp] theorem resetWrite_outLen (s : State) : (resetWrite s).outLen = s.outLen := rfl
@[simp] theorem resetWrite_gf (s : State) : (resetWrite s).gf = s.gf := rfl
@[simp] theorem resetWrite_key (s : State) : (resetWrite s).key = s.key := rfl
@[simp] theorem resetWrite_iv (s : State) : (resetWrite s).iv = s.iv := rfl
@[simp] theorem resetWrite_cipherState (s : State) : (resetWrite s).cipherState = s.cipherState := rfl
@[simp] theorem resetWrite_chain (s : State) : (resetWrite s).chain = s.chain := rfl
@[simp] theorem resetWrite_mem (s : State) : (resetWrite s).mem = s.mem := rfl
@[simp] theorem resetWrite_ctl (s : State) : (resetWrite s).ctl = s.ctl := rfl
@[simp] theorem resetWrite_inReset (s : State) : (resetWrite s).inReset = s.inReset := rfl
@[simp] theorem resetWrite_inputs (s : State) : (resetWrite s).inputs = s.inputs := rfl
@[simp] theorem resetWrite_epoch (s : State) : (resetWrite s).epoch = s.epoch := rfl
@[simp] theorem resetWrite_draws (s : State) : (resetWrite s).draws = s.draws + 1 := rfl

/-! ## STATUS -/

@[simp] theorem status_stored_busy (st : Status) : st.stored.busy = st.busy := rfl
@[simp] theorem status_stored_done (st : Status) : st.stored.done = false := rfl
@[simp] theorem status_stored_err (st : Status) : st.stored.err = false := rfl
@[simp] theorem status_stored_keyValid (st : Status) : st.stored.keyValid = st.keyValid := rfl
@[simp] theorem status_stored_padFallback (st : Status) : st.stored.padFallback = false := rfl
@[simp] theorem status_stored_wign (st : Status) : st.stored.wign = st.wign := rfl
@[simp] theorem status_stored_errCode (st : Status) : st.stored.errCode = ErrCode.none := rfl

@[simp] theorem status_accepted_busy (st : Status) : st.accepted.busy = true := rfl
@[simp] theorem status_accepted_done (st : Status) : st.accepted.done = st.done := rfl
@[simp] theorem status_accepted_err (st : Status) : st.accepted.err = st.err := rfl
@[simp] theorem status_accepted_keyValid (st : Status) : st.accepted.keyValid = st.keyValid := rfl
@[simp] theorem status_accepted_padFallback (st : Status) : st.accepted.padFallback = st.padFallback := rfl
@[simp] theorem status_accepted_wign (st : Status) : st.accepted.wign = st.wign := rfl
@[simp] theorem status_accepted_errCode (st : Status) : st.accepted.errCode = st.errCode := rfl

@[simp] theorem status_completed_busy (st : Status) : st.completed.busy = false := rfl
@[simp] theorem status_completed_done (st : Status) : st.completed.done = true := rfl
@[simp] theorem status_completed_err (st : Status) : st.completed.err = st.err := rfl
@[simp] theorem status_completed_keyValid (st : Status) : st.completed.keyValid = st.keyValid := rfl
@[simp] theorem status_completed_padFallback (st : Status) : st.completed.padFallback = st.padFallback := rfl
@[simp] theorem status_completed_wign (st : Status) : st.completed.wign = st.wign := rfl
@[simp] theorem status_completed_errCode (st : Status) : st.completed.errCode = st.errCode := rfl

@[simp] theorem status_failed_busy (st : Status) (e : ErrCode) : (st.failed e).busy = false := rfl
@[simp] theorem status_failed_done (st : Status) (e : ErrCode) : (st.failed e).done = true := rfl
@[simp] theorem status_failed_err (st : Status) (e : ErrCode) : (st.failed e).err = true := rfl
@[simp] theorem status_failed_keyValid (st : Status) (e : ErrCode) : (st.failed e).keyValid = st.keyValid := rfl
@[simp] theorem status_failed_padFallback (st : Status) (e : ErrCode) : (st.failed e).padFallback = st.padFallback := rfl
@[simp] theorem status_failed_wign (st : Status) (e : ErrCode) : (st.failed e).wign = st.wign := rfl
@[simp] theorem status_failed_errCode (st : Status) (e : ErrCode) : (st.failed e).errCode = e := rfl

@[simp] theorem status_writeIgnored_busy (st : Status) : st.writeIgnored.busy = st.busy := rfl
@[simp] theorem status_writeIgnored_done (st : Status) : st.writeIgnored.done = st.done := rfl
@[simp] theorem status_writeIgnored_err (st : Status) : st.writeIgnored.err = st.err := rfl
@[simp] theorem status_writeIgnored_keyValid (st : Status) : st.writeIgnored.keyValid = st.keyValid := rfl
@[simp] theorem status_writeIgnored_padFallback (st : Status) : st.writeIgnored.padFallback = st.padFallback := rfl
@[simp] theorem status_writeIgnored_wign (st : Status) : st.writeIgnored.wign = true := rfl
@[simp] theorem status_writeIgnored_errCode (st : Status) : st.writeIgnored.errCode = st.errCode := rfl

@[simp] theorem status_keyChanged_busy (st : Status) : st.keyChanged.busy = st.busy := rfl
@[simp] theorem status_keyChanged_done (st : Status) : st.keyChanged.done = st.done := rfl
@[simp] theorem status_keyChanged_err (st : Status) : st.keyChanged.err = st.err := rfl
@[simp] theorem status_keyChanged_keyValid (st : Status) : st.keyChanged.keyValid = false := rfl
@[simp] theorem status_keyChanged_padFallback (st : Status) : st.keyChanged.padFallback = st.padFallback := rfl
@[simp] theorem status_keyChanged_wign (st : Status) : st.keyChanged.wign = st.wign := rfl
@[simp] theorem status_keyChanged_errCode (st : Status) : st.keyChanged.errCode = st.errCode := rfl

@[simp] theorem status_keyExpanded_busy (st : Status) : st.keyExpanded.busy = st.busy := rfl
@[simp] theorem status_keyExpanded_done (st : Status) : st.keyExpanded.done = st.done := rfl
@[simp] theorem status_keyExpanded_err (st : Status) : st.keyExpanded.err = st.err := rfl
@[simp] theorem status_keyExpanded_keyValid (st : Status) : st.keyExpanded.keyValid = true := rfl
@[simp] theorem status_keyExpanded_padFallback (st : Status) : st.keyExpanded.padFallback = st.padFallback := rfl
@[simp] theorem status_keyExpanded_wign (st : Status) : st.keyExpanded.wign = st.wign := rfl
@[simp] theorem status_keyExpanded_errCode (st : Status) : st.keyExpanded.errCode = st.errCode := rfl

@[simp] theorem status_w1c_busy (st : Status) (w : Word) : (st.w1c w).busy = st.busy := rfl
@[simp] theorem status_w1c_done (st : Status) (w : Word) : (st.w1c w).done = (st.done && !w.getLsbD 1) := rfl
@[simp] theorem status_w1c_err (st : Status) (w : Word) : (st.w1c w).err = (st.err && !w.getLsbD 2) := rfl
@[simp] theorem status_w1c_keyValid (st : Status) (w : Word) : (st.w1c w).keyValid = st.keyValid := rfl
@[simp] theorem status_w1c_padFallback (st : Status) (w : Word) : (st.w1c w).padFallback = (st.padFallback && !w.getLsbD 4) := rfl
@[simp] theorem status_w1c_wign (st : Status) (w : Word) : (st.w1c w).wign = (st.wign && !w.getLsbD 5) := rfl
@[simp] theorem status_w1c_errCode (st : Status) (w : Word) : (st.w1c w).errCode = (if w.getLsbD 2 then ErrCode.none else st.errCode) := rfl

end Sys2Proof.Machine
end

