-- ==== Sys2Proof/Laws/Memory.lean ====
section
/-! SUPPORT. The laws of the RAM: a read after a write, bytes outside a write, and the canonical form. -/

namespace Sys2Proof.Machine

@[simp] theorem memGet_nil (a : Nat) : memGet [] a = none := rfl

theorem memGet_memSet_same (m : Memory) (a : Nat) (v : Byte) : memGet (memSet m a v) a = some v := by
  induction m with
  | nil => simp [memSet, memGet]
  | cons c m ih =>
    obtain ⟨b, w⟩ := c
    simp only [memSet]
    split
    · simp [memGet]
    · split
      · simp [memGet]
      · rename_i h
        simp [memGet, h, ih]

theorem memGet_memSet_ne (m : Memory) {a c : Nat} (v : Byte) (h : c ≠ a) :
    memGet (memSet m a v) c = memGet m c := by
  induction m with
  | nil => simp [memSet, memGet, h]
  | cons d m ih =>
    obtain ⟨b, w⟩ := d
    simp only [memSet]
    split
    · simp [memGet, h]
    · split
      · rename_i h2
        subst h2
        simp [memGet, h]
      · simp [memGet, ih]

/-- The offset at the head of a canonical memory is below every other one; memSet keeps that bound. -/
theorem memSet_wf_aux (m : Memory) (a : Nat) (v : Byte) (h : Memory.wf m = true) :
    Memory.wf (memSet m a v) = true ∧
      ∀ b w, Memory.wf ((b, w) :: m) = true → b < a → Memory.wf ((b, w) :: memSet m a v) = true := by
  induction m with
  | nil => simp [memSet, Memory.wf]
  | cons d m ih =>
    obtain ⟨b, w⟩ := d
    have htail : Memory.wf m = true := by
      cases m with
      | nil => rfl
      | cons e m => simp only [Memory.wf, Bool.and_eq_true] at h; exact h.2
    obtain ⟨_, ih2⟩ := ih htail
    have key : Memory.wf (memSet ((b, w) :: m) a v) = true := by
      simp only [memSet]
      split
      · rename_i hab
        simp [Memory.wf, hab, h]
      · split
        · rename_i hab
          subst hab
          cases m with
          | nil => rfl
          | cons e m => simpa [Memory.wf] using h
        · exact ih2 b w h (by omega)
    refine ⟨key, fun c u hc hca => ?_⟩
    simp only [Memory.wf, Bool.and_eq_true, decide_eq_true_eq] at hc
    revert key
    simp only [memSet]
    split
    · rename_i hab
      intro _
      simp [Memory.wf, hca, hab, h]
    · split
      · intro key
        simp only [Memory.wf, Bool.and_eq_true, decide_eq_true_eq]
        exact ⟨hca, key⟩
      · intro key
        simp only [Memory.wf, Bool.and_eq_true, decide_eq_true_eq]
        exact ⟨hc.1, key⟩

theorem memSet_wf (m : Memory) (a : Nat) (v : Byte) (h : Memory.wf m = true) :
    Memory.wf (memSet m a v) = true :=
  (memSet_wf_aux m a v h).1

/-- Every memory operation of the machine is a memSetBytes, and it keeps the canonical form. -/
theorem memSetBytes_wf (m : Memory) (a : Nat) (v : Bytes) (h : Memory.wf m = true) :
    Memory.wf (memSetBytes m a v) = true := by
  induction v generalizing m a with
  | nil => exact h
  | cons x v ih => exact ih _ _ (memSet_wf m a x h)

theorem memGet_memSetBytes_outside (m : Memory) (a : Nat) (v : Bytes) {c : Nat}
    (h : c < a ∨ a + v.length ≤ c) : memGet (memSetBytes m a v) c = memGet m c := by
  induction v generalizing m a with
  | nil => rfl
  | cons x v ih =>
    simp only [List.length_cons] at h
    rw [memSetBytes, ih (memSet m a x) (a + 1) (by omega), memGet_memSet_ne _ _ (by omega)]

theorem memGet_memSetBytes_inside (m : Memory) (a : Nat) (v : Bytes) {j : Nat} (h : j < v.length) :
    memGet (memSetBytes m a v) (a + j) = some v[j] := by
  induction v generalizing m a j with
  | nil => simp at h
  | cons x v ih =>
    rw [memSetBytes]
    cases j with
    | zero =>
      rw [memGet_memSetBytes_outside _ _ _ (by omega), Nat.add_zero, memGet_memSet_same]
      simp
    | succ j =>
      have := ih (memSet m a x) (a + 1) (j := j) (by simpa using h)
      rw [show a + (j + 1) = a + 1 + j by omega, this]
      simp

/-- Where memSetBytes lists a byte, it was listed before or it is one of the written ones. -/
theorem mem_memSet (m : Memory) (a : Nat) (v : Byte) {c : Host.Cell} (h : c ∈ memSet m a v) :
    c ∈ m ∨ c.1 = a := by
  induction m with
  | nil => simp [memSet] at h; exact .inr (by rw [h])
  | cons d m ih =>
    obtain ⟨b, w⟩ := d
    simp only [memSet] at h
    split at h
    · rcases List.mem_cons.1 h with h | h
      · exact .inr (by rw [h])
      · exact .inl h
    · split at h
      · rcases List.mem_cons.1 h with h | h
        · exact .inr (by rw [h])
        · exact .inl (List.mem_cons_of_mem _ h)
      · rcases List.mem_cons.1 h with h | h
        · exact .inl (by rw [h]; exact List.mem_cons_self ..)
        · rcases ih h with h | h
          · exact .inl (List.mem_cons_of_mem _ h)
          · exact .inr h

theorem mem_memSetBytes (m : Memory) (a : Nat) (v : Bytes) {c : Host.Cell}
    (h : c ∈ memSetBytes m a v) : c ∈ m ∨ (a ≤ c.1 ∧ c.1 < a + v.length) := by
  induction v generalizing m a with
  | nil => exact .inl h
  | cons x v ih =>
    simp only [List.length_cons]
    rcases ih _ _ h with h | h
    · rcases mem_memSet m a x h with h | h
      · exact .inl h
      · exact .inr (by omega)
    · exact .inr (by omega)

/-- byteAt looks at the memory and the reset epoch only. -/
theorem byteAt_congr {s t : State} (hm : s.mem = t.mem) (he : s.epoch = t.epoch) (a : Nat) :
    byteAt s a = byteAt t a := by
  simp [byteAt, hm, he]

/-- memRead looks at the memory and the reset epoch only. -/
theorem memRead_congr {s t : State} (hm : s.mem = t.mem) (he : s.epoch = t.epoch) (sp : Space)
    (off n : Nat) : memRead s sp off n = memRead t sp off n := by
  simp [memRead, byteAt, hm, he]

@[simp] theorem memRead_length (s : State) (sp : Space) (off n : Nat) :
    (memRead s sp off n).length = n := by
  simp [memRead]

@[simp] theorem inBytes_length (s : State) : (inBytes s).length = s.inLen.toNat := by
  simp [inBytes]

/-- What a memWrite leaves at every offset. -/
theorem byteAt_memWrite_outside (s : State) (sp : Space) (off : Nat) (v : Bytes) {a : Nat}
    (h : a < sp.base + off ∨ sp.base + off + v.length ≤ a) :
    byteAt (memWrite sp off v s) a = byteAt s a := by
  simp [byteAt, memGet_memSetBytes_outside _ _ _ h]

theorem byteAt_memWrite_inside (s : State) (sp : Space) (off : Nat) (v : Bytes) {j : Nat}
    (h : j < v.length) : byteAt (memWrite sp off v s) (sp.base + off + j) = v[j] := by
  simp [byteAt, memGet_memSetBytes_inside _ _ _ h]

end Sys2Proof.Machine
end

