-- ==== Sys2Proof/Laws/Lifecycle.lean ====
section
/-! SUPPORT. The command lifecycle: what the store leaves in the checks, and the two ways a command ends. -/

namespace Sys2Proof.Machine

/-- The completion effect of each command, as exec's arm passes it to runLifecycle. -/
def commandEffect : Instr → State → State
  | .nop => fun t => t
  | .expandKey => expandKeyEffect
  | .encBlock => blockEffect cipher
  | .decBlock => blockEffect invCipher
  | .ecbEnc => ecbEncEffect
  | .ecbDec => ecbDecEffect
  | .cbcEnc => cbcEncEffect
  | .cbcDec => cbcDecEffect
  | .pad => padEffect
  | .unpad => unpadEffect
  | .gfMul => gfMulEffect
  | .subBytes => stateEffect subBytes
  | .invSubBytes => stateEffect invSubBytes
  | .shiftRows => stateEffect shiftRows
  | .invShiftRows => stateEffect invShiftRows
  | .mixColumns => stateEffect mixColumns
  | .invMixColumns => stateEffect invMixColumns
  | .addRoundKey round => addRoundKeyEffect round.toNat

/-- Every arm of exec is one lifecycle. -/
theorem exec_eq_runLifecycle (i : Instr) (s : State) :
    exec i s = runLifecycle i (commandEffect i) s := by
  cases i <;> rfl

/-- The store changes nothing the checks look at (R111). -/
@[simp] theorem checkPreconditions_storeWord (i : Instr) (w : Word) (s : State) :
    checkPreconditions i (storeWord w s) = checkPreconditions i s := rfl

/-- The checks look at KEY_LEN, IN_LEN, KEY_VALID and BUF_BYTES only. -/
theorem checkPreconditions_congr (i : Instr) {s t : State} (hb : t.bufBlocks = s.bufBlocks)
    (hl : t.inLen = s.inLen) (hk : t.keyLen = s.keyLen)
    (hv : t.status.keyValid = s.status.keyValid) :
    checkPreconditions i t = checkPreconditions i s := by
  unfold checkPreconditions shapeError bufBytes
  rw [hb, hl, hk, hv]

/-- A command whose check fails raises its error and does nothing else. -/
theorem exec_of_error {i : Instr} {s : State} {e : ErrCode} (h : checkPreconditions i s = some e) :
    exec i s = .next (raiseError e (storeWord (encode i) s)) := by
  rw [exec_eq_runLifecycle, runLifecycle, checkPreconditions_storeWord, h]

/-- A command whose checks pass performs its effect and finishes. -/
theorem exec_of_ok {i : Instr} {s : State} (h : checkPreconditions i s = none) :
    exec i s = .next (finish (commandEffect i (storeWord (encode i) s))) := by
  rw [exec_eq_runLifecycle, runLifecycle, checkPreconditions_storeWord, h]

/-- The two ways a command ends; there is no third. -/
theorem exec_cases {i : Instr} {s t : State} (h : exec i s = .next t) :
    (∃ e, checkPreconditions i s = some e ∧ t = raiseError e (storeWord (encode i) s)) ∨
      (checkPreconditions i s = none ∧ t = finish (commandEffect i (storeWord (encode i) s))) := by
  cases hc : checkPreconditions i s with
  | none => rw [exec_of_ok hc] at h; exact .inr ⟨rfl, (Host.Outcome.next.inj h).symm⟩
  | some e => rw [exec_of_error hc] at h; exact .inl ⟨e, rfl, (Host.Outcome.next.inj h).symm⟩

/-- A well-formed command's failure is one of R251's conditions: its IN_LEN, its KEY_LEN or its shape. -/
theorem checkPreconditions_none {i : Instr} {s : State} (h : checkPreconditions i s = none) :
    i.wellFormed = true ∧ (readsIn i = true → s.inLen.toNat ≤ bufBytes s) ∧
      (usesKey i = true → s.keyLen = 16) ∧ shapeError i s = none := by
  unfold checkPreconditions at h
  split at h
  · cases h
  · split at h
    · cases h
    · split at h
      · cases h
      · rename_i h1 h2 h3
        refine ⟨by simpa using h1, fun hr => ?_, fun hk => ?_, h⟩
        · exact Nat.le_of_not_lt fun hlt => h2 ⟨hr, hlt⟩
        · exact not_not.1 fun hne => h3 ⟨hk, hne⟩

/-- No check answers the code NONE: an error always has a code of its own. -/
theorem checkPreconditions_ne_none (i : Instr) (s : State) :
    checkPreconditions i s ≠ some .none := by
  unfold checkPreconditions
  cases i <;> simp only [shapeError] <;> (repeat' split) <;> simp

/-! ## What an effect leaves alone -/

/-- An effect reads RAM through the memory and the epoch; the store changes neither. -/
@[simp] theorem memRead_storeWord (w : Word) (s : State) (sp : Space) (off n : Nat) :
    memRead (storeWord w s) sp off n = memRead s sp off n := rfl

@[simp] theorem inBytes_storeWord (w : Word) (s : State) :
    inBytes (storeWord w s) = inBytes s := rfl

@[simp] theorem storedRoundKey_storeWord (w : Word) (s : State) (r : Nat) :
    storedRoundKey (storeWord w s) r = storedRoundKey s r := rfl

end Sys2Proof.Machine
end

