-- ==== Sys2Proof/Laws/Bus.lean ====
section
/-! SUPPORT. The bus: what a transaction does in each of its cases, and what a store of a command word does. -/

namespace Sys2Proof.Machine

theorem aligned_iff (off : Offset) : aligned off = true ↔ off.toNat % 4 = 0 := by
  simp [aligned]

theorem busRead_reset {s : State} (off : Offset) (hr : s.inReset = true) :
    busRead off s = resetRead s := by
  simp [busRead, hr]

theorem busRead_misaligned {s : State} {off : Offset} (hr : s.inReset = false)
    (ha : off.toNat % 4 ≠ 0) : busRead off s = { s with reply := some (.read 0 .error) } := by
  simp [busRead, hr, aligned, ha]

theorem busRead_aligned {s : State} {off : Offset} (hr : s.inReset = false)
    (ha : off.toNat % 4 = 0) :
    busRead off s =
      { s with
        reply := some (.read (readReg s (regAt off.toNat)) .ok)
        draws := if unspecifiedBits s (regAt off.toNat) = 0 then s.draws else s.draws + 1 } := by
  simp [busRead, hr, aligned, ha]

/-- The value read where no bit is unspecified. -/
theorem readReg_exact {s : State} {r : Reg} (hu : unspecifiedBits s r = 0) :
    readReg s r = regValue s r := by
  simp [readReg, hu]

/-- The value read where some bits are unspecified. -/
theorem readReg_draw {s : State} {r : Reg} (hu : unspecifiedBits s r ≠ 0) :
    readReg s r =
      (regValue s r &&& ~~~ unspecifiedBits s r) |||
        (Config.busyDraw s.draws &&& unspecifiedBits s r) :=
  if_neg hu

/-- A read of a register with no unspecified bit returns its value and takes no draw. -/
theorem busRead_exact {s : State} {off : Offset} (hr : s.inReset = false) (ha : off.toNat % 4 = 0)
    (hu : unspecifiedBits s (regAt off.toNat) = 0) :
    busRead off s = { s with reply := some (.read (regValue s (regAt off.toNat)) .ok) } := by
  rw [busRead_aligned hr ha, readReg_exact hu, if_pos hu]

@[simp] theorem unspecifiedBits_idle {s : State} (h : s.status.busy = false) (r : Reg) :
    unspecifiedBits s r = 0 := by
  simp [unspecifiedBits, h]

theorem busWrite_reset {s : State} (off : Offset) (d : Word) (hr : s.inReset = true) :
    busWrite off d s = resetWrite s := by
  simp [busWrite, hr]

theorem busWrite_misaligned {s : State} {off : Offset} (d : Word) (hr : s.inReset = false)
    (ha : off.toNat % 4 ≠ 0) : busWrite off d s = { s with reply := some (.write .error) } := by
  simp [busWrite, hr, aligned, ha]

theorem busWrite_busy {s : State} {off : Offset} (d : Word) (hr : s.inReset = false)
    (ha : off.toNat % 4 = 0) (hb : s.status.busy = true) :
    busWrite off d s = { s with status := s.status.writeIgnored, reply := some (.write .ok) } := by
  simp [busWrite, hr, aligned, ha, hb]

theorem busWrite_idle {s : State} {off : Offset} (d : Word) (hr : s.inReset = false)
    (ha : off.toNat % 4 = 0) (hb : s.status.busy = false) :
    busWrite off d s = { writeReg (regAt off.toNat) d s with reply := some (.write .ok) } := by
  simp [busWrite, hr, aligned, ha, hb]

/-- The store of a command word, where the block is idle (R110). -/
theorem busWrite_cmd {s : State} (w : Word) (hr : s.inReset = false) (hb : s.status.busy = false) :
    busWrite 0x0000C w s = { storeCommand w s with reply := some (.write .ok) } :=
  busWrite_idle w hr rfl hb

theorem storeCommand_illegal {w : Word} {why : IllegalReason} (s : State)
    (h : decode w = .illegal why) :
    storeCommand w s = raiseError .illegalCommand (storeWord w s) := by
  simp [storeCommand, h]

theorem storeCommand_error {w : Word} {i : Instr} {s : State} {e : ErrCode}
    (h : decode w = .command i) (he : checkPreconditions i s = some e) :
    storeCommand w s = raiseError e (storeWord w s) := by
  simp [storeCommand, h, he]

theorem storeCommand_ok {w : Word} {i : Instr} {s : State}
    (h : decode w = .command i) (he : checkPreconditions i s = none) :
    storeCommand w s = acceptCommand i (storeWord w s) := by
  simp [storeCommand, h, he]

/-- The three ways a store ends. -/
theorem storeCommand_cases (w : Word) (s : State) :
    (∃ e, e ≠ .none ∧ storeCommand w s = raiseError e (storeWord w s)) ∨
      ∃ i, decode w = .command i ∧ checkPreconditions i s = none ∧
        storeCommand w s = acceptCommand i (storeWord w s) := by
  cases hd : decode w with
  | illegal why => exact .inl ⟨.illegalCommand, by simp, storeCommand_illegal s hd⟩
  | command i =>
    cases hc : checkPreconditions i s with
    | none => exact .inr ⟨i, rfl, hc, storeCommand_ok hd hc⟩
    | some e =>
      refine .inl ⟨e, fun he => checkPreconditions_ne_none i s (he ▸ hc), storeCommand_error hd hc⟩

/-- The register an aligned offset of each window selects. -/
theorem regAt_key (k : Fin 4) : regAt (0x00030 + 4 * k.val) = .key k := by
  revert k; decide

theorem regAt_iv (k : Fin 4) : regAt (0x00040 + 4 * k.val) = .iv k := by
  revert k; decide

theorem regAt_state (k : Fin 4) : regAt (0x00050 + 4 * k.val) = .state k := by
  revert k; decide

theorem regAt_chain (k : Fin 4) : regAt (0x00060 + 4 * k.val) = .chain k := by
  revert k; decide

theorem regAt_inWindow {k : Nat} (h : k < 0x4000) : regAt (0x10000 + 4 * k) = .inWindow k := by
  unfold regAt
  repeat rw [if_neg (by omega)]
  rw [if_pos (by omega)]
  congr 1
  omega

theorem regAt_outWindow {k : Nat} (h : k < 0x4000) : regAt (0x20000 + 4 * k) = .outWindow k := by
  unfold regAt
  repeat rw [if_neg (by omega)]
  rw [if_pos (by omega)]
  congr 1
  omega

theorem regAt_rk (k : Fin 44) : regAt (0x00100 + 4 * k.val) = .rk k := by
  revert k; decide

theorem regAt_sbox (k : Fin 64) : regAt (0x00400 + 4 * k.val) = .sbox k := by
  revert k; decide

theorem regAt_invSbox (k : Fin 64) : regAt (0x00500 + 4 * k.val) = .invSbox k := by
  revert k; decide

theorem regAt_rcon (k : Fin 16) : regAt (0x00600 + 4 * k.val) = .rcon k := by
  revert k; decide

/-- The reserved offsets (R42). -/
theorem regAt_reserved {a : Nat} (h4 : a % 4 = 0)
    (h : (0x00024 ≤ a ∧ a < 0x00030) ∨ (0x00070 ≤ a ∧ a < 0x00100) ∨
      (0x001B0 ≤ a ∧ a < 0x00400) ∨ (0x00640 ≤ a ∧ a < 0x10000) ∨ 0x30000 ≤ a) :
    regAt a = .reserved := by
  unfold regAt
  repeat rw [if_neg (by omega)]

end Sys2Proof.Machine
end

