-- ==== Sys2Proof/Laws/Effects.lean ====
section
/-! SUPPORT. The completion effects: what each writes, as one record update, and what all of them leave alone. -/

namespace Sys2Proof.Machine

theorem writeSchedule_eq (rk : Bytes) (s : State) :
    writeSchedule rk s =
      { s with
        mem := memSetBytes s.mem 0x00100 rk
        status := { s.status with keyValid := true } } := by
  simp [writeSchedule, memWrite, Space.base, Status.keyExpanded]

theorem writeOutput_eq (v : Bytes) (n : Nat) (s : State) :
    writeOutput v n s =
      { s with mem := memSetBytes s.mem 0x20000 v, outLen := BitVec.ofNat 32 n } := by
  simp [writeOutput, memWrite, Space.base]

theorem expandKeyEffect_eq (s : State) :
    expandKeyEffect s =
      { s with
        mem := memSetBytes s.mem 0x00100 (keyExpansion s.key)
        status := { s.status with keyValid := true } } := by
  simp only [expandKeyEffect, writeSchedule_eq]

theorem blockEffect_eq (f : Block → Bytes → Block) (s : State) :
    blockEffect f s =
      { s with
        mem := memSetBytes (memSetBytes s.mem 0x00100 (keyExpansion s.key)) 0x20000
          (blockBytes (f (blockOfBytes (memRead s .inBuf 0 16)) (keyExpansion s.key)))
        status := { s.status with keyValid := true }
        outLen := 16
        cipherState := f (blockOfBytes (memRead s .inBuf 0 16)) (keyExpansion s.key) } := by
  simp only [blockEffect, writeSchedule_eq, writeOutput_eq, setCipherState]
  rfl

theorem padEffect_eq (s : State) :
    padEffect s =
      { s with
        mem := memSetBytes s.mem 0x20000 (padBytes (inBytes s))
        outLen := BitVec.ofNat 32 (padBytes (inBytes s)).length } := by
  simp only [padEffect, writeOutput_eq]

theorem unpadEffect_eq (s : State) :
    unpadEffect s =
      { s with
        mem := memSetBytes s.mem 0x20000 (inBytes s)
        outLen := BitVec.ofNat 32 (unpadGuard (inBytes s)).1.length
        status := { s.status with padFallback := (unpadGuard (inBytes s)).2 } } := by
  simp only [unpadEffect, writeOutput_eq, setPadFallback]

theorem ecbEncEffect_eq (s : State) {c : Bytes}
    (h : c = ecbEncBytes (prepare (inBytes s)) (keyExpansion s.key)) :
    ecbEncEffect s =
      { s with
        mem := memSetBytes (memSetBytes s.mem 0x00100 (keyExpansion s.key)) 0x20000 c
        status := { s.status with keyValid := true }
        outLen := BitVec.ofNat 32 c.length
        cipherState := if c.length = 0 then s.cipherState else lastBlock c } := by
  subst h
  simp only [ecbEncEffect, setStateToLast, writeSchedule_eq, writeOutput_eq, setCipherState,
    Nat.pos_iff_ne_zero, ne_eq, ite_not]
  split <;> rfl

theorem ecbDecEffect_eq (s : State) {p : Bytes}
    (h : p = ecbDecBytes (inBytes s) (keyExpansion s.key)) :
    ecbDecEffect s =
      { s with
        mem := memSetBytes (memSetBytes s.mem 0x00100 (keyExpansion s.key)) 0x20000 p
        status := { s.status with keyValid := true, padFallback := (unpadGuard p).2 }
        outLen := BitVec.ofNat 32 (unpadGuard p).1.length
        cipherState := lastBlock p } := by
  subst h
  simp only [ecbDecEffect, writeSchedule_eq, writeOutput_eq, setCipherState, setPadFallback]

theorem cbcEncEffect_eq (s : State) {c : Bytes} {previous : Block}
    (h : cbcEncBytes (prepare (inBytes s)) (keyExpansion s.key) s.iv = (c, previous)) :
    cbcEncEffect s =
      { s with
        mem := memSetBytes (memSetBytes s.mem 0x00100 (keyExpansion s.key)) 0x20000 c
        status := { s.status with keyValid := true }
        outLen := BitVec.ofNat 32 c.length
        chain := previous
        cipherState := if c.length = 0 then s.cipherState else lastBlock c } := by
  simp only [cbcEncEffect, h, setStateToLast, writeSchedule_eq, writeOutput_eq, setCipherState,
    setChain, Nat.pos_iff_ne_zero, ne_eq, ite_not]
  split <;> rfl

theorem cbcDecEffect_eq (s : State) {p : Bytes} {previous : Block}
    (h : cbcDecBytes (inBytes s) (keyExpansion s.key) s.iv = (p, previous)) :
    cbcDecEffect s =
      { s with
        mem := memSetBytes (memSetBytes s.mem 0x00100 (keyExpansion s.key)) 0x20000 p
        status := { s.status with keyValid := true, padFallback := (unpadGuard p).2 }
        outLen := BitVec.ofNat 32 (unpadGuard p).1.length
        chain := previous
        cipherState := cbcDecLast (inBytes s) (keyExpansion s.key) } := by
  simp only [cbcDecEffect, h, writeSchedule_eq, writeOutput_eq, setCipherState, setChain,
    setPadFallback]

/-! ## What every effect leaves alone -/

/-- The registers and model fields no effect writes (R118). -/
theorem commandEffect_frame (i : Instr) (s : State) :
    (commandEffect i s).bufBlocks = s.bufBlocks ∧ (commandEffect i s).irqEn = s.irqEn ∧
      (commandEffect i s).cmd = s.cmd ∧ (commandEffect i s).keyLen = s.keyLen ∧
      (commandEffect i s).inLen = s.inLen ∧ (commandEffect i s).gf.a = s.gf.a ∧
      (commandEffect i s).gf.b = s.gf.b ∧ (commandEffect i s).key = s.key ∧
      (commandEffect i s).iv = s.iv ∧ (commandEffect i s).ctl = s.ctl ∧
      (commandEffect i s).inReset = s.inReset ∧ (commandEffect i s).inputs = s.inputs ∧
      (commandEffect i s).reply = s.reply ∧ (commandEffect i s).epoch = s.epoch ∧
      (commandEffect i s).draws = s.draws := by
  cases i <;>
    simp only [commandEffect, expandKeyEffect_eq, blockEffect_eq, ecbEncEffect_eq _ rfl,
      ecbDecEffect_eq _ rfl, cbcEncEffect_eq _ rfl, cbcDecEffect_eq _ rfl, padEffect_eq,
      unpadEffect_eq, gfMulEffect, setProduct, stateEffect, addRoundKeyEffect, setCipherState,
      and_self]

/-- What an effect does to STATUS: KEY_VALID is set by a command that uses the key, PAD_FALLBACK is written
by one that unpads, and nothing else changes (R29, R30). -/
theorem commandEffect_status (i : Instr) (s : State) :
    ∃ f, (commandEffect i s).status =
        { s.status with keyValid := s.status.keyValid || usesKey i, padFallback := f } ∧
      (unpads i = false → f = s.status.padFallback) := by
  cases i <;>
    simp only [commandEffect, expandKeyEffect_eq, blockEffect_eq, ecbEncEffect_eq _ rfl,
      ecbDecEffect_eq _ rfl, cbcEncEffect_eq _ rfl, cbcDecEffect_eq _ rfl, padEffect_eq,
      unpadEffect_eq, gfMulEffect, setProduct, stateEffect, addRoundKeyEffect, setCipherState,
      usesKey, unpads, Bool.or_true, Bool.or_false] <;>
    exact ⟨_, rfl, by simp⟩

/-- The bytes a command writes to OUT. -/
def outputBytes (i : Instr) (s : State) : Bytes :=
  match i with
  | .encBlock => blockBytes (cipher (blockOfBytes (memRead s .inBuf 0 16)) (keyExpansion s.key))
  | .decBlock => blockBytes (invCipher (blockOfBytes (memRead s .inBuf 0 16)) (keyExpansion s.key))
  | .ecbEnc => ecbEncBytes (prepare (inBytes s)) (keyExpansion s.key)
  | .ecbDec => ecbDecBytes (inBytes s) (keyExpansion s.key)
  | .cbcEnc => (cbcEncBytes (prepare (inBytes s)) (keyExpansion s.key) s.iv).1
  | .cbcDec => (cbcDecBytes (inBytes s) (keyExpansion s.key) s.iv).1
  | .pad => padBytes (inBytes s)
  | .unpad => inBytes s
  | .nop | .expandKey | .gfMul | .subBytes | .invSubBytes | .shiftRows | .invShiftRows
  | .mixColumns | .invMixColumns | .addRoundKey _ => []

/-- What an effect does to the memory: the schedule into RK, then the output into OUT. -/
theorem commandEffect_mem (i : Instr) (s : State) :
    (commandEffect i s).mem =
      memSetBytes (memSetBytes s.mem 0x00100 (if usesKey i = true then keyExpansion s.key else []))
        0x20000 (outputBytes i s) := by
  cases i <;>
    simp only [commandEffect, expandKeyEffect_eq, blockEffect_eq, ecbEncEffect_eq _ rfl,
      ecbDecEffect_eq _ rfl, cbcEncEffect_eq _ rfl, cbcDecEffect_eq _ rfl, padEffect_eq,
      unpadEffect_eq, gfMulEffect, setProduct, stateEffect, addRoundKeyEffect, setCipherState,
      usesKey, outputBytes, if_true, Bool.false_eq_true, if_false, memSetBytes, cbcEncBytes,
      cbcDecBytes]

/-- OUT holds the output after the completion. -/
theorem memRead_outputBytes (i : Instr) (s : State) :
    memRead (finish (commandEffect i s)) .outBuf 0 (outputBytes i s).length = outputBytes i s := by
  apply List.ext_getElem
  · simp
  · intro j _ h2
    simp only [memRead, List.getElem_map, List.getElem_range, Space.base, byteAt, finish_mem,
      commandEffect_mem]
    rw [memGet_memSetBytes_inside _ _ _ h2]
    rfl

/-- A successful command writes as many bytes to OUT as its blocks have. -/
theorem outputBytes_length {i : Instr} {s : State} (h : checkPreconditions i s = none) :
    (outputBytes i s).length = (blockInput i s).length := by
  obtain ⟨-, -, -, hs⟩ := checkPreconditions_none h
  cases i <;>
    simp [outputBytes, blockInput, shapeError, prepare_length] at hs ⊢ <;> omega

end Sys2Proof.Machine
end

