-- ==== Sys2Proof/Laws/Controller.lean ====
section
/-! SUPPORT. The hidden controller: what a phase step keeps. -/

namespace Sys2Proof.Machine

/-- The next block's first phase is a step of the controller, with the same captured word. -/
theorem nextBlock_frame (i : Instr) (s : State) (c : Controller) :
    (nextBlock i s c).word = c.word ∧ (nextBlock i s c).phase ≠ .idle ∧
      (nextBlock i s c).phase ≠ .accept ∧ (nextBlock i s c).rnd = 0 := by
  unfold nextBlock afterBlocks
  repeat' split
  all_goals simp

/-- ACCEPT is left for a later phase, with the captured word kept and the round counter in range. -/
theorem leaveAccept_frame (i : Instr) (s : State) {c : Controller} (h : c.rnd ≤ 10) :
    (leaveAccept i s c).word = c.word ∧ (leaveAccept i s c).phase ≠ .idle ∧
      (leaveAccept i s c).phase ≠ .accept ∧ (leaveAccept i s c).rnd ≤ 10 := by
  have hn := nextBlock_frame i s
  unfold leaveAccept
  cases engine i with
  | single => simp [h]
  | schedule => simp [startExpansion]
  | copy => exact ⟨(hn c).1, (hn c).2.1, (hn c).2.2.1, by rw [(hn c).2.2.2]; omega⟩
  | encipher | decipher =>
    simp only
    split
    · exact ⟨(hn _).1, (hn _).2.1, (hn _).2.2.1, by rw [(hn _).2.2.2]; omega⟩
    · simp [startExpansion]

/-- A phase step keeps the captured word, never falls back to IDLE or ACCEPT, and keeps the round counter
in 0..10 (R44). -/
theorem advance_frame (i : Instr) {s : State} (h1 : s.ctl.phase ≠ .idle) (h2 : s.ctl.phase ≠ .accept)
    (h3 : s.ctl.rnd ≤ 10) :
    (advance i s).word = s.ctl.word ∧ (advance i s).phase ≠ .idle ∧
      (advance i s).phase ≠ .accept ∧ (advance i s).rnd ≤ 10 := by
  have hn := nextBlock_frame i s
  cases hp : s.ctl.phase <;> simp only [advance, hp] <;> simp only [hp] at h1 h2
  case idle => exact absurd rfl h1
  case accept => exact absurd rfl h2
  case keyexp =>
    unfold keyexpStep
    dsimp only
    repeat' split
    · exact ⟨rfl, by simp [hp], by simp [hp], by simp; omega⟩
    · simp
    · exact ⟨(hn _).1, (hn _).2.1, (hn _).2.2.1, by rw [(hn _).2.2.2]; omega⟩
  case load => simp [loadStep, h3]
  case init => unfold initStep; split <;> simp
  case round =>
    unfold roundStep
    dsimp only
    (repeat' split) <;> simp [hp] <;> omega
  case final => unfold finalStep; split <;> simp [h3]
  case store =>
    exact ⟨(hn _).1, (hn _).2.1, (hn _).2.2.1, by simp only [storeStep]; rw [(hn _).2.2.2]; omega⟩
  case unpad => simp [unpadStep, h3]
  case complete => simp [h3]

/-- A command's blocks never hold more bytes than the OUT buffer. -/
theorem blockInput_length_le {i : Instr} {s : State} (h : checkPreconditions i s = none) :
    (blockInput i s).length ≤ bufBytes s + 16 := by
  obtain ⟨-, hr, -, -⟩ := checkPreconditions_none h
  have : bufBytes s % 16 = 0 := by unfold bufBytes; omega
  cases i <;> simp [blockInput, readsIn, prepare_length] at hr ⊢ <;> omega

end Sys2Proof.Machine
end

