-- ==== Sys2Proof/Laws/GaloisField.lean ====
section
/-! SUPPORT. The product of GF(2^8) is linear: the loop of R135 splits over XOR in each of its arguments. -/

namespace Sys2Proof.Machine

theorem gfShift_xor (a b : Byte) : gfShift (a ^^^ b) = gfShift a ^^^ gfShift b := by
  unfold gfShift
  rw [BitVec.getLsbD_xor]
  have h : ∀ x y : Byte, (x ^^^ y) <<< 1 = x <<< 1 ^^^ y <<< 1 := fun x y => by
    ext i hi
    by_cases h0 : i = 0 <;> simp [h0]
  cases a.getLsbD 7 <;> cases b.getLsbD 7 <;> simp only [h, Bool.xor_true, Bool.xor_false, Bool.not_false,
    Bool.not_true, Bool.false_eq_true, if_true, if_false]
  · ac_rfl
  · ac_rfl
  · rw [show a <<< 1 ^^^ 0x1B#8 ^^^ (b <<< 1 ^^^ 0x1B#8) = a <<< 1 ^^^ b <<< 1 ^^^ (0x1B#8 ^^^ 0x1B#8) by
      ac_rfl]
    simp

@[simp] theorem gfShift_zero : gfShift 0#8 = 0#8 := rfl

/-- The accumulator of the loop is XORed into its result. -/
theorem gfLoop_acc (n : Nat) (p a b : Byte) : gfLoop n p a b = p ^^^ gfLoop n 0 a b := by
  induction n generalizing p a b with
  | zero => simp [gfLoop]
  | succ n ih =>
    simp only [gfLoop]
    rw [ih (if b.getLsbD 0 then p ^^^ a else p), ih (if b.getLsbD 0 then 0 ^^^ a else 0)]
    split <;> simp [BitVec.xor_assoc]

/-- The loop is linear in its first operand. -/
theorem gfLoop_xor_left (n : Nat) (a a' b : Byte) :
    gfLoop n 0 (a ^^^ a') b = gfLoop n 0 a b ^^^ gfLoop n 0 a' b := by
  induction n generalizing a a' b with
  | zero => simp [gfLoop]
  | succ n ih =>
    simp only [gfLoop]
    rw [gfLoop_acc, gfLoop_acc n (if b.getLsbD 0 then 0 ^^^ a else 0),
      gfLoop_acc n (if b.getLsbD 0 then 0 ^^^ a' else 0), gfShift_xor, ih]
    cases b.getLsbD 0
    · simp
    · simp only [if_true]
      ac_rfl

/-- The product is linear in its first operand. -/
theorem gfMul_xor_left (a a' b : Byte) : gfMul (a ^^^ a') b = gfMul a b ^^^ gfMul a' b :=
  gfLoop_xor_left 8 a a' b

/-- Where a bit of the second operand is 0, the loop only shifts. -/
theorem gfLoop_succ (n : Nat) (a b : Byte) :
    gfLoop (n + 1) 0 a b = (if b.getLsbD 0 then a else 0) ^^^ gfLoop n 0 (gfShift a) (b >>> 1) := by
  rw [gfLoop, gfLoop_acc]
  split <;> simp

end Sys2Proof.Machine
end

