-- ==== Sys2Proof/Laws/PerInstr.lean ====
section
/-! SUPPORT. The family EncodeReserved: in every command's word RSVD is 0, and ROUND is 0 but for ADD_ROUND_KEY,
whose ROUND is its field (30_encoding.md R91, R94). -/

namespace Sys2Proof.Laws.EncodeReserved

/-- RSVD is 0, and ROUND is the command's field where it has one and 0 where it has none. -/
def Statement (i : Instr) : Prop :=
  reservedField (encode i) = 0 ∧
    ((roundField (encode i) = 0 ∧ opcodeField (encode i) ≠ 0x17#8) ∨
      ∃ r, i = .addRoundKey r ∧ roundField (encode i) = r ∧ opcodeField (encode i) = 0x17#8)

theorem nop : Statement .nop := ⟨by decide, .inl (by decide)⟩

theorem expandKey : Statement .expandKey := ⟨by decide, .inl (by decide)⟩

theorem encBlock : Statement .encBlock := ⟨by decide, .inl (by decide)⟩

theorem decBlock : Statement .decBlock := ⟨by decide, .inl (by decide)⟩

theorem ecbEnc : Statement .ecbEnc := ⟨by decide, .inl (by decide)⟩

theorem ecbDec : Statement .ecbDec := ⟨by decide, .inl (by decide)⟩

theorem cbcEnc : Statement .cbcEnc := ⟨by decide, .inl (by decide)⟩

theorem cbcDec : Statement .cbcDec := ⟨by decide, .inl (by decide)⟩

theorem pad : Statement .pad := ⟨by decide, .inl (by decide)⟩

theorem unpad : Statement .unpad := ⟨by decide, .inl (by decide)⟩

theorem gfMul : Statement .gfMul := ⟨by decide, .inl (by decide)⟩

theorem subBytes : Statement .subBytes := ⟨by decide, .inl (by decide)⟩

theorem invSubBytes : Statement .invSubBytes := ⟨by decide, .inl (by decide)⟩

theorem shiftRows : Statement .shiftRows := ⟨by decide, .inl (by decide)⟩

theorem invShiftRows : Statement .invShiftRows := ⟨by decide, .inl (by decide)⟩

theorem mixColumns : Statement .mixColumns := ⟨by decide, .inl (by decide)⟩

theorem invMixColumns : Statement .invMixColumns := ⟨by decide, .inl (by decide)⟩

theorem addRoundKey (round : BitVec 4) : Statement (.addRoundKey round) :=
  ⟨by revert round; decide, .inr ⟨round, rfl, by revert round; decide, by revert round; decide⟩⟩

end Sys2Proof.Laws.EncodeReserved
end

