-- ==== Sys2Proof/Laws/Step.lean ====
section
/-! SUPPORT. One step: the event it serves, and everything it can lead to. -/

namespace Sys2Proof.Machine

theorem step_of_no_input {s : State} (h : s.inputs = []) : step s = clockStep exec s := by
  simp [step, h]

theorem step_of_input {s : State} {e : BusEvent} {rest : List BusEvent} (h : s.inputs = e :: rest) :
    step s = serveEvent exec e { s with inputs := rest } := by
  simp [step, h]

/-- The ways a clock ends. -/
theorem clockStep_cases {s t : State} (h : clockStep exec s = .next t) :
    t = s ∨
    (s.inReset = false ∧ s.ctl.phase = .complete ∧
      ∃ i, decode s.ctl.word = .command i ∧ exec i s = .next t) ∨
    (s.inReset = false ∧ s.ctl.phase ≠ .idle ∧ s.ctl.phase ≠ .complete ∧
      ∃ i, decode s.ctl.word = .command i ∧ t = { s with ctl := advance i s }) ∨
    (s.inReset = false ∧ s.ctl.phase ≠ .idle ∧
      (∃ why, decode s.ctl.word = .illegal why) ∧ t = raiseError .illegalCommand s) := by
  unfold clockStep at h
  split at h
  · exact .inl (Host.Outcome.next.inj h).symm
  · rename_i hr
    have hr : s.inReset = false := by simpa using hr
    cases hd : decode s.ctl.word <;> cases hp : s.ctl.phase <;> simp only [hd, hp] at h <;>
      first
        | exact .inl (Host.Outcome.next.inj h).symm
        | exact .inr (.inl ⟨hr, rfl, _, rfl, h⟩)
        | exact .inr (.inr (.inl ⟨hr, by simp, by simp, _, rfl, (Host.Outcome.next.inj h).symm⟩))
        | exact .inr (.inr (.inr ⟨hr, by simp, ⟨_, rfl⟩, (Host.Outcome.next.inj h).symm⟩))

/-- A clock outside reset, at a phase that is a step of the controller, advances the captured command. -/
theorem clockStep_advance {s : State} {i : Instr} (hr : s.inReset = false)
    (hi : s.ctl.phase ≠ .idle) (hc : s.ctl.phase ≠ .complete) (hd : decode s.ctl.word = .command i) :
    clockStep exec s = .next { s with ctl := advance i s } := by
  cases hp : s.ctl.phase <;> simp_all [clockStep]

/-- A clock outside reset, at COMPLETE, completes the captured command. -/
theorem clockStep_complete {s : State} {i : Instr} (hr : s.inReset = false)
    (hc : s.ctl.phase = .complete) (hd : decode s.ctl.word = .command i) :
    clockStep exec s = exec i s := by
  simp [clockStep, hr, hc, hd]

/-- The ways a step ends: a clock, or the service of the oldest event from outside. -/
theorem step_cases {s t : State} (h : step s = .next t) :
    (s.inputs = [] ∧ clockStep exec s = .next t) ∨
    ∃ e rest, s.inputs = e :: rest ∧ serveEvent exec e { s with inputs := rest } = .next t := by
  cases hi : s.inputs with
  | nil => exact .inl ⟨rfl, by rw [← step_of_no_input hi]; exact h⟩
  | cons e rest => exact .inr ⟨e, rest, rfl, by rw [← step_of_input hi]; exact h⟩

end Sys2Proof.Machine
end

