-- ==== Sys2Proof/Laws/Safety.lean ====
section
/-! SUPPORT. The parts of the invariant depend on a few fields each: two states that agree on them agree on the part. -/

namespace Sys2Proof.Machine

theorem ramOffset_congr {s t : State} (h : t.bufBlocks = s.bufBlocks) (a : Nat) :
    ramOffset t a ↔ ramOffset s a := by
  simp [ramOffset, bufBytes, h]

theorem MemoryOk.congr {s t : State} (h : MemoryOk s) (hm : t.mem = s.mem)
    (hb : t.bufBlocks = s.bufBlocks) : MemoryOk t := by
  unfold MemoryOk
  rw [hm]
  exact ⟨h.1, fun c hc => (ramOffset_congr hb c.1).2 (h.2 c hc)⟩

theorem RoundKeysOk.congr {s t : State} (h : RoundKeysOk s) (hm : t.mem = s.mem)
    (he : t.epoch = s.epoch) (hk : t.key = s.key) (hl : t.keyLen = s.keyLen)
    (hv : t.status.keyValid = s.status.keyValid) : RoundKeysOk t := by
  unfold RoundKeysOk
  rw [hv, hk, hl, memRead_congr hm he]
  exact h

theorem OutLenOk.congr {s t : State} (h : OutLenOk s) (ho : t.outLen = s.outLen)
    (hb : t.bufBlocks = s.bufBlocks) : OutLenOk t := by
  unfold OutLenOk bufBytes
  rw [ho, hb]
  exact h

/-- A state with no command in flight and the controller idle meets the controller's part. -/
theorem controllerOk_idle {s : State} (hb : s.status.busy = false) (hc : s.ctl = Controller.idle) :
    ControllerOk s := by
  refine ⟨by simp [hc, Controller.idle], by simp [hc, Controller.idle], fun _ => hc, fun h => ?_⟩
  simp [hb] at h

/-- A write of RAM bytes keeps the memory's part of the invariant. -/
theorem memSetBytes_ok {s : State} {m : Memory} {v : Bytes} {a : Nat}
    (h : Memory.wf m = true ∧ ∀ c ∈ m, ramOffset s c.1)
    (hv : ∀ j, a ≤ j → j < a + v.length → ramOffset s j) :
    Memory.wf (memSetBytes m a v) = true ∧ ∀ c ∈ memSetBytes m a v, ramOffset s c.1 := by
  refine ⟨memSetBytes_wf _ _ _ h.1, fun c hc => ?_⟩
  rcases mem_memSetBytes _ _ _ hc with h' | ⟨h1, h2⟩
  · exact h.2 c h'
  · exact hv _ h1 h2

/-- While a command executes, the captured word decodes to a command whose checks pass, and its phase is
none of IDLE and ACCEPT. -/
theorem Consistent.of_phase {s : State} (h : Consistent s) (hp : s.ctl.phase ≠ .idle) :
    s.status.busy = true ∧ ∃ i, decode s.ctl.word = .command i ∧ checkPreconditions i s = none := by
  obtain ⟨-, -, -, ⟨-, -, hi, hb⟩, -, -⟩ := h
  cases hbusy : s.status.busy with
  | false => exact absurd (by rw [hi hbusy]; rfl) hp
  | true =>
    obtain ⟨-, hw, i, hd, hc⟩ := hb hbusy
    exact ⟨rfl, i, by rw [hw]; exact hd, hc⟩

end Sys2Proof.Machine
end

