-- ==== Sys2Proof/Tests/Slice0.lean ====
section
/-! SUPPORT. The model's own tests. Expected values are spec/95_test_vectors.md's (the row is named in each test) or
calculated by hand from the rule named; the witness theorems show states that meet the hypotheses of the
statements. -/

open Sys2Proof Sys2Proof.Machine

namespace Sys2Proof.Tests

/-! ## Helpers -/

/-- The state after the captured word `w` has completed from `s`: one step. -/
def after (w : Nat) (s : State) : Option State :=
  match step (s.withFetchWord 32 w) with
  | .next t => some t
  | .fault _ => none
  | .refused _ => none

/-- The state after the word `w` is stored into CMD. -/
def stored (w : Word) (s : State) : State := busWrite 0x0000C w s

/-- Reset, with a STATE value. -/
def withState (b : Block) : State := { State.reset with cipherState := b }

/-- Reset, with an input in IN. -/
def withInput (d : Bytes) : State :=
  { State.reset with inLen := BitVec.ofNat 32 d.length, mem := memSetBytes [] 0x10000 d }

/-- Key and blocks of vector V2. -/
def keyV2 : Block :=
  #v[0x00, 0x01, 0x02, 0x03, 0x04, 0x05, 0x06, 0x07, 0x08, 0x09, 0x0a, 0x0b, 0x0c, 0x0d, 0x0e, 0x0f]

def plainV2 : Block :=
  #v[0x00, 0x11, 0x22, 0x33, 0x44, 0x55, 0x66, 0x77, 0x88, 0x99, 0xaa, 0xbb, 0xcc, 0xdd, 0xee, 0xff]

def cipherV2 : Block :=
  #v[0x69, 0xc4, 0xe0, 0xd8, 0x6a, 0x7b, 0x04, 0x30, 0xd8, 0xcd, 0xb7, 0x80, 0x70, 0xb4, 0xc5, 0x5a]

/-- plainV2 XOR sixteen bytes 0xff, by hand. -/
def plainFF : Block :=
  #v[0xff, 0xee, 0xdd, 0xcc, 0xbb, 0xaa, 0x99, 0x88, 0x77, 0x66, 0x55, 0x44, 0x33, 0x22, 0x11, 0x00]

def ones : Block := Vector.replicate 16 0xff

/-- Reset, with the key of V2, an IV of sixteen bytes 0xff and one block in IN. -/
def withBlock (b : Block) : State :=
  { withInput (blockBytes b) with key := keyV2, iv := ones, inLen := 16 }

/-- One step of a captured word is exec of its command. -/
theorem step_withFetchWord {s : State} {w : Nat} {i : Instr}
    (h : decode (BitVec.ofNat 32 (w % 2 ^ 32)) = .command i) :
    step (s.withFetchWord 32 w) = exec i { s.withFetchWord 32 w with inputs := s.inputs } := by
  rw [step_of_input (s := s.withFetchWord 32 w) rfl]
  exact clockStep_complete rfl rfl h

/-! ## WellFormed -/

theorem test_wellFormed_round10 : (Instr.addRoundKey 10).wellFormed = true := by decide
theorem test_wellFormed_refuses_round11 : (Instr.addRoundKey 11).wellFormed = false := by decide
theorem test_wellFormed_refuses_round15 : (Instr.addRoundKey 15).wellFormed = false := by decide

/-! ## Decode: 30_encoding.md R94, RSVD, ROUND and OPCODE written out -/

theorem test_decode_nop : decode 0b00000000000000000000000000000000 = .command .nop := by decide
theorem test_decode_expandKey : decode 0b00000000000000000000000000000001 = .command .expandKey := by decide
theorem test_decode_encBlock : decode 0b00000000000000000000000000000010 = .command .encBlock := by decide
theorem test_decode_decBlock : decode 0b00000000000000000000000000000011 = .command .decBlock := by decide
theorem test_decode_ecbEnc : decode 0b00000000000000000000000000000100 = .command .ecbEnc := by decide
theorem test_decode_ecbDec : decode 0b00000000000000000000000000000101 = .command .ecbDec := by decide
theorem test_decode_cbcEnc : decode 0b00000000000000000000000000000110 = .command .cbcEnc := by decide
theorem test_decode_cbcDec : decode 0b00000000000000000000000000000111 = .command .cbcDec := by decide
theorem test_decode_pad : decode 0b00000000000000000000000000001000 = .command .pad := by decide
theorem test_decode_unpad : decode 0b00000000000000000000000000001001 = .command .unpad := by decide
theorem test_decode_gfMul : decode 0b00000000000000000000000000010000 = .command .gfMul := by decide
theorem test_decode_subBytes : decode 0b00000000000000000000000000010001 = .command .subBytes := by decide
theorem test_decode_invSubBytes :
    decode 0b00000000000000000000000000010010 = .command .invSubBytes := by decide
theorem test_decode_shiftRows : decode 0b00000000000000000000000000010011 = .command .shiftRows := by decide
theorem test_decode_invShiftRows :
    decode 0b00000000000000000000000000010100 = .command .invShiftRows := by decide
theorem test_decode_mixColumns :
    decode 0b00000000000000000000000000010101 = .command .mixColumns := by decide
theorem test_decode_invMixColumns :
    decode 0b00000000000000000000000000010110 = .command .invMixColumns := by decide
theorem test_decode_addRoundKey_10 :
    decode 0b00000000000000000000101000010111 = .command (.addRoundKey 10) := by decide

/-- R96 and rows E1, E2, E14 to E17. -/
theorem test_decode_rejects_by_name :
    decode 0x00000B17 = .illegal .roundOutOfRange ∧ decode 0x00000F17 = .illegal .roundOutOfRange ∧
    decode 0x00000102 = .illegal .roundNotZero ∧ decode 0x0000000A = .illegal .reservedOpcode ∧
    decode 0x0000000F = .illegal .reservedOpcode ∧ decode 0x000000FF = .illegal .reservedOpcode ∧
    decode 0x00000018 = .illegal .reservedOpcode ∧ decode 0x80000000 = .illegal .reservedBits ∧
    decode 0x00001011 = .illegal .reservedBits := by decide

theorem test_decodeTableWord :
    decodeTableWord 32 0x00000A17 = some (.addRoundKey 10) ∧ decodeTableWord 32 0x00000B17 = none ∧
    decodeTableWord 8 0x11 = some .subBytes := by decide

/-! ## One step per command -/

/-- N2. -/
theorem test_nop_clears_flags :
    ((after 0x00000000 { State.reset with
        status := { Status.reset with done := true, err := true, padFallback := true,
                                      errCode := .noRoundKeys } }).map fun t => t.status.toWord) =
      some 0x00000002 := by decide

/-- N3. -/
theorem test_nop_keeps_wign :
    ((after 0x00000000 { State.reset with
        status := { Status.reset with done := true, wign := true } }).map fun t => t.status.toWord) =
      some 0x00000022 := by decide

/-- G1: GF reads 0x00C18357. -/
theorem test_gfMul_G1 :
    ((after 0x00000010 { State.reset with gf := { a := 0x57, b := 0x83, p := 0 } }).map
      fun t => t.gf.toWord) = some 0x00C18357 := by decide

/-- G4: the reduction by 0x1b. -/
theorem test_gfMul_G4 :
    ((after 0x00000010 { State.reset with gf := { a := 0x80, b := 0x02, p := 0x55 } }).map
      fun t => t.gf.toWord) = some 0x001B0280 := by decide

/-- D2. -/
theorem test_subBytes_D2 :
    ((after 0x00000011 (withState
      #v[0x19, 0x3d, 0xe3, 0xbe, 0xa0, 0xf4, 0xe2, 0x2b, 0x9a, 0xc6, 0x8d, 0x2a, 0xe9, 0xf8, 0x48, 0x08])).map
      fun t => t.cipherState) =
    some #v[0xd4, 0x27, 0x11, 0xae, 0xe0, 0xbf, 0x98, 0xf1, 0xb8, 0xb4, 0x5d, 0xe5, 0x1e, 0x41, 0x52, 0x30] := by
  decide +kernel

/-- D4. -/
theorem test_invSubBytes_D4 :
    ((after 0x00000012 (withState keyV2)).map fun t => t.cipherState) =
    some #v[0x52, 0x09, 0x6a, 0xd5, 0x30, 0x36, 0xa5, 0x38, 0xbf, 0x40, 0xa3, 0x9e, 0x81, 0xf3, 0xd7, 0xfb] := by
  decide +kernel

/-- D7, D25: no key is needed. -/
theorem test_shiftRows_D7 :
    ((after 0x00000013 (withState keyV2)).map fun t => t.cipherState) =
    some #v[0x00, 0x05, 0x0a, 0x0f, 0x04, 0x09, 0x0e, 0x03, 0x08, 0x0d, 0x02, 0x07, 0x0c, 0x01, 0x06, 0x0b] := by
  decide +kernel

/-- D9. -/
theorem test_invShiftRows_D9 :
    ((after 0x00000014 (withState keyV2)).map fun t => t.cipherState) =
    some #v[0x00, 0x0d, 0x0a, 0x07, 0x04, 0x01, 0x0e, 0x0b, 0x08, 0x05, 0x02, 0x0f, 0x0c, 0x09, 0x06, 0x03] := by
  decide +kernel

/-- D12. -/
theorem test_mixColumns_D12 :
    ((after 0x00000015 (withState
      #v[0xd4, 0xbf, 0x5d, 0x30, 0xe0, 0xb4, 0x52, 0xae, 0xb8, 0x41, 0x11, 0xf1, 0x1e, 0x27, 0x98, 0xe5])).map
      fun t => t.cipherState) =
    some #v[0x04, 0x66, 0x81, 0xe5, 0xe0, 0xcb, 0x19, 0x9a, 0x48, 0xf8, 0xd3, 0x7a, 0x28, 0x06, 0x26, 0x4c] := by
  decide +kernel

/-- D16. -/
theorem test_invMixColumns_D16 :
    ((after 0x00000016 (withState keyV2)).map fun t => t.cipherState) =
    some #v[0x0a, 0x0f, 0x08, 0x0d, 0x0e, 0x0b, 0x0c, 0x09, 0x02, 0x07, 0x00, 0x05, 0x06, 0x03, 0x04, 0x01] := by
  decide +kernel

/-- D20's round key 10 of key 2b7e..3c in RK (L2.4), at bytes [160, 176), XOR sixteen bytes 0x01 by hand. -/
theorem test_addRoundKey_D20 :
    ((after 0x00000A17 { State.reset with
        status := { Status.reset with keyValid := true }
        mem := memSetBytes [] (0x00100 + 160)
          [0xd0, 0x14, 0xf9, 0xa8, 0xc9, 0xee, 0x25, 0x89, 0xe1, 0x3f, 0x0c, 0xc8, 0xb6, 0x63, 0x0c, 0xa6]
        cipherState := Vector.replicate 16 0x01 }).map fun t => (t.cipherState, t.status.toWord)) =
    some (#v[0xd1, 0x15, 0xf8, 0xa9, 0xc8, 0xef, 0x24, 0x88, 0xe0, 0x3e, 0x0d, 0xc9, 0xb7, 0x62, 0x0d, 0xa7],
      0x0000000A) := by decide +kernel

/-- D23. -/
theorem test_addRoundKey_D23 :
    (stored 0x00000017 (withState keyV2)).status.toWord = 0x00000506 ∧
      (stored 0x00000017 (withState keyV2)).cipherState = keyV2 := by decide

/-- L2.4, key 0001..0f: round key 10, and STATUS. -/
theorem test_expandKey_round10 :
    ((after 0x00000001 { State.reset with key := keyV2 }).map
      fun t => (memRead t .rk 160 16, t.status.toWord)) =
    some ([0x13, 0x11, 0x1d, 0x7f, 0xe3, 0x94, 0x4a, 0x17, 0xf3, 0x07, 0xa7, 0x8b, 0x4d, 0x2b, 0x30, 0xc5],
      0x0000000A) := by decide +kernel

/-- K2. -/
theorem test_expandKey_K2 :
    (stored 0x00000001 { State.reset with keyLen := 0x18 }).status.toWord = 0x00000106 := by decide

/-- B3. -/
theorem test_cipher_B3 : cipher plainV2 (keyExpansion keyV2) = cipherV2 := by decide +kernel

/-- B4. -/
theorem test_invCipher_B4 : invCipher cipherV2 (keyExpansion keyV2) = plainV2 := by decide +kernel

/-- The input of withBlock, read back. -/
theorem inBytes_withBlock (b : Block) {s : State} (hm : s.mem = (withBlock b).mem)
    (hl : s.inLen.toNat = 16) : inBytes s = blockBytes b := by
  apply List.ext_getElem
  · simp [hl]
  · intro j h1 h2
    simp only [inBytes, memRead, List.getElem_map, List.getElem_range, Space.base, byteAt, hm, withBlock,
      withInput]
    rw [Nat.add_zero, memGet_memSetBytes_inside _ _ _ h2]
    rfl

/-- The output of a completed command whose output is known. -/
theorem memRead_of_outputBytes {i : Instr} {s : State} {d : Bytes} {n : Nat} (h : outputBytes i s = d)
    (hn : d.length = n) : memRead (finish (commandEffect i s)) .outBuf 0 n = d := by
  rw [← hn, ← h]
  exact memRead_outputBytes i s

theorem slice_blockBytes (b : Block) : slice (blockBytes b) 0 16 = blockBytes b := by
  simp [slice]

/-- withBlock with the word `w` captured: the state in which step runs it. -/
def captured (b : Block) (w : Nat) : State := { (withBlock b).withFetchWord 32 w with inputs := [] }

theorem inBytes_captured (b : Block) (w : Nat) : inBytes (captured b w) = blockBytes b :=
  inBytes_withBlock b rfl rfl

theorem memRead_captured (b : Block) (w : Nat) : memRead (captured b w) .inBuf 0 16 = blockBytes b :=
  inBytes_captured b w

theorem blocks_blockBytes (b : Block) : blocks (blockBytes b) = [b] := by
  simpa using blocks_joinBlocks [b]

theorem lastBlock_blockBytes (b : Block) : lastBlock (blockBytes b) = b := by
  simp [lastBlock, slice, List.take_of_length_le]

theorem prepare_blockBytes (b : Block) : prepare (blockBytes b) = blockBytes b := by
  simp [prepare]

/-- The step of a captured word on withBlock, where the checks pass. -/
theorem step_captured {b : Block} {w : Nat} {i : Instr}
    (h : decode (BitVec.ofNat 32 (w % 2 ^ 32)) = .command i)
    (hc : checkPreconditions i (captured b w) = none) :
    step ((withBlock b).withFetchWord 32 w) =
      .next (finish (commandEffect i (storeWord (encode i) (captured b w)))) := by
  rw [step_withFetchWord h]
  exact exec_of_ok hc

theorem xor_ones_cipher : xorBlock plainV2 ones = plainFF := by decide +kernel

theorem xor_ones_plain : xorBlock plainFF ones = plainV2 := by decide +kernel

/-- B3. -/
theorem test_encBlock_B3 :
    ∃ t, step ((withBlock plainV2).withFetchWord 32 0x00000002) = .next t ∧
      memRead t .outBuf 0 16 = blockBytes cipherV2 ∧ t.cipherState = cipherV2 ∧ t.outLen = 16 ∧
      t.status.toWord = 0x0000000A := by
  refine ⟨_, step_captured (i := .encBlock) rfl (by decide), memRead_of_outputBytes ?_ (by simp), ?_⟩
  · simp [outputBytes, memRead_captured, show (captured plainV2 2).key = keyV2 from rfl, test_cipher_B3]
  · simp only [commandEffect, blockEffect_eq, finish_cipherState, finish_outLen, finish_status,
      memRead_storeWord, memRead_captured, blockOfBytes_blockBytes, storeWord_key,
      show (captured plainV2 2).key = keyV2 from rfl, test_cipher_B3, true_and]
    decide

/-- B4. -/
theorem test_decBlock_B4 :
    ∃ t, step ((withBlock cipherV2).withFetchWord 32 0x00000003) = .next t ∧
      memRead t .outBuf 0 16 = blockBytes plainV2 ∧ t.cipherState = plainV2 ∧ t.outLen = 16 ∧
      t.status.toWord = 0x0000000A := by
  refine ⟨_, step_captured (i := .decBlock) rfl (by decide), memRead_of_outputBytes ?_ (by simp), ?_⟩
  · simp [outputBytes, memRead_captured, show (captured cipherV2 3).key = keyV2 from rfl,
      test_invCipher_B4]
  · simp only [commandEffect, blockEffect_eq, finish_cipherState, finish_outLen, finish_status,
      memRead_storeWord, memRead_captured, blockOfBytes_blockBytes, storeWord_key,
      show (captured cipherV2 3).key = keyV2 from rfl, test_invCipher_B4, true_and]
    decide

/-- V2: the message is block-aligned, so nothing is padded. -/
theorem test_ecbEnc_V2 :
    ∃ t, step ((withBlock plainV2).withFetchWord 32 0x00000004) = .next t ∧
      memRead t .outBuf 0 16 = blockBytes cipherV2 ∧ t.cipherState = cipherV2 ∧ t.outLen = 16 ∧
      t.status.toWord = 0x0000000A := by
  have ho : ecbEncBytes (prepare (inBytes (captured plainV2 4))) (keyExpansion keyV2) =
      blockBytes cipherV2 := by
    simp [inBytes_captured, prepare_blockBytes, ecbEncBytes, blocks_blockBytes, test_cipher_B3]
  refine ⟨_, step_captured (i := .ecbEnc) rfl (by decide), memRead_of_outputBytes ho (by simp), ?_⟩
  rw [commandEffect, ecbEncEffect_eq _ (c := blockBytes cipherV2) (by exact ho.symm)]
  simp only [finish_cipherState, finish_outLen, finish_status, blockBytes_length, lastBlock_blockBytes]
  decide

/-- P5: the last decrypted byte is 0xff, so the guard falls back. -/
theorem test_ecbDec_P5 :
    ∃ t, step ((withBlock cipherV2).withFetchWord 32 0x00000005) = .next t ∧
      memRead t .outBuf 0 16 = blockBytes plainV2 ∧ t.cipherState = plainV2 ∧ t.outLen = 16 ∧
      t.status.toWord = 0x0000001A := by
  have ho : ecbDecBytes (inBytes (captured cipherV2 5)) (keyExpansion keyV2) = blockBytes plainV2 := by
    simp [inBytes_captured, ecbDecBytes, blocks_blockBytes, test_invCipher_B4]
  refine ⟨_, step_captured (i := .ecbDec) rfl (by decide), memRead_of_outputBytes ho (by simp), ?_⟩
  rw [commandEffect, ecbDecEffect_eq _ (p := blockBytes plainV2) (by exact ho.symm)]
  simp only [finish_cipherState, finish_outLen, finish_status, lastBlock_blockBytes]
  decide

/-- By hand from B3: the IV is sixteen bytes 0xff, so the block that is enciphered is plainV2. -/
theorem test_cbcEnc_one_block :
    ∃ t, step ((withBlock plainFF).withFetchWord 32 0x00000006) = .next t ∧
      memRead t .outBuf 0 16 = blockBytes cipherV2 ∧ t.cipherState = cipherV2 ∧ t.chain = cipherV2 ∧
      t.outLen = 16 ∧ t.status.toWord = 0x0000000A := by
  have ho : cbcEncBytes (prepare (inBytes (captured plainFF 6))) (keyExpansion keyV2) ones =
      (blockBytes cipherV2, cipherV2) := by
    simp [inBytes_captured, prepare_blockBytes, cbcEncBytes, blocks_blockBytes, cbcEncBlocks,
      xor_ones_plain, test_cipher_B3]
  refine ⟨_, step_captured (i := .cbcEnc) rfl (by decide),
    memRead_of_outputBytes (d := blockBytes cipherV2) (congrArg Prod.fst ho) (by simp), ?_⟩
  rw [commandEffect, cbcEncEffect_eq _ (c := blockBytes cipherV2) (previous := cipherV2) (by exact ho)]
  simp only [finish_cipherState, finish_chain,
    finish_outLen, finish_status, blockBytes_length, lastBlock_blockBytes]
  decide

/-- By hand from B4: the IV is sixteen bytes 0xff; the last byte of the result is 0x00, so the guard falls
back; STATE is the InvCipher output before the XOR, CHAIN the ciphertext block. -/
theorem test_cbcDec_one_block :
    ∃ t, step ((withBlock cipherV2).withFetchWord 32 0x00000007) = .next t ∧
      memRead t .outBuf 0 16 = blockBytes plainFF ∧ t.cipherState = plainV2 ∧ t.chain = cipherV2 ∧
      t.outLen = 16 ∧ t.status.toWord = 0x0000001A := by
  have ho : cbcDecBytes (inBytes (captured cipherV2 7)) (keyExpansion keyV2) ones =
      (blockBytes plainFF, cipherV2) := by
    simp [inBytes_captured, cbcDecBytes, blocks_blockBytes, cbcDecBlocks, xor_ones_cipher,
      test_invCipher_B4]
  have hl : cbcDecLast (inBytes (captured cipherV2 7)) (keyExpansion keyV2) = plainV2 := by
    simp [inBytes_captured, cbcDecLast, lastBlock_blockBytes, test_invCipher_B4]
  refine ⟨_, step_captured (i := .cbcDec) rfl (by decide),
    memRead_of_outputBytes (d := blockBytes plainFF) (congrArg Prod.fst ho) (by simp), ?_⟩
  rw [commandEffect, cbcDecEffect_eq _ (p := blockBytes plainFF) (previous := cipherV2) (by exact ho)]
  simp only [finish_cipherState, finish_chain,
    finish_outLen, finish_status, inBytes_storeWord, storeWord_key,
    show (captured cipherV2 7).key = keyV2 from rfl, hl]
  decide

/-- M14: the empty message; STATE keeps its value, KEY_VALID is set. -/
theorem test_ecbEnc_M14 :
    ((after 0x00000004 (withState plainV2)).map
      fun t => (t.cipherState[15], t.outLen, t.status.toWord)) = some (0xff, 0, 0x0000000A) := by
  decide

/-- M15: the empty message; CHAIN takes IV. -/
theorem test_cbcEnc_M15 :
    ((after 0x00000006 { State.reset with iv := plainV2 }).map
      fun t => (t.chain[15], t.outLen, t.status.toWord)) = some (0xff, 0, 0x0000000A) := by decide

/-- M17. -/
theorem test_ecbDec_M17 :
    (stored 0x00000005 { State.reset with inLen := 20 }).status.toWord = 0x00000306 := by decide

/-- M18. -/
theorem test_cbcDec_M18 :
    (stored 0x00000007 { State.reset with inLen := 20, keyLen := 0x18 }).status.toWord = 0x00000106 := by
  decide

/-- B9. -/
theorem test_encBlock_B9 :
    (stored 0x00000002 { State.reset with inLen := 15 }).status.toWord = 0x00000206 := by decide

/-- B11. -/
theorem test_decBlock_B11 :
    (stored 0x00000003 { State.reset with inLen := 15, keyLen := 0x20 }).status.toWord = 0x00000106 := by
  decide

/-- U2. -/
theorem test_pad_U2 :
    ((after 0x00000008 (withInput [0x41])).map fun t => (memRead t .outBuf 0 16, t.outLen)) =
      some (0x41 :: List.replicate 15 0x0f, 16) := by decide

/-- E10 and E11. -/
theorem test_pad_E10_E11 :
    (stored 0x00000008 { State.reset with inLen := 4097, keyLen := 0x18 }).status.toWord = 0x00000606 ∧
    ((after 0x00000008 { State.reset with keyLen := 0x18 }).map fun t => t.status.toWord) =
      some 0x00000002 := by decide

/-- U16: the count equals the length. -/
theorem test_unpad_U16 :
    ((after 0x00000009 (withInput [0x41, 0x02])).map
      fun t => (memRead t .outBuf 0 2, t.outLen, t.status.toWord)) =
      some ([0x41, 0x02], 2, 0x00000012) := by decide

/-- U17. -/
theorem test_unpad_U17 :
    ((after 0x00000009 (withInput [0x41, 0x01])).map
      fun t => (memRead t .outBuf 0 2, t.outLen, t.status.toWord)) =
      some ([0x41, 0x01], 1, 0x00000002) := by decide

/-! ## The bus -/

/-- The data and response of a read. -/
def readOf (off : Offset) (s : State) : Option BusReply := (busRead off s).reply

/-- X1 to X6. -/
theorem test_bus_reads_after_reset :
    readOf 0x00000 State.reset = some (.read 0x41455331 .ok) ∧
    readOf 0x00004 State.reset = some (.read 0x00001000 .ok) ∧
    readOf 0x00010 State.reset = some (.read 0x00000000 .ok) ∧
    readOf 0x00014 State.reset = some (.read 0x00000010 .ok) ∧
    readOf 0x00400 State.reset = some (.read 0x7B777C63 .ok) ∧
    readOf 0x004FC State.reset = some (.read 0x16BB54B0 .ok) := by decide

/-- X7 to X12. -/
theorem test_bus_more_reads_after_reset :
    readOf 0x00500 State.reset = some (.read 0xD56A0952 .ok) ∧
    readOf 0x00604 State.reset = some (.read 0x00000001 .ok) ∧
    readOf 0x00628 State.reset = some (.read 0x00000036 .ok) ∧
    readOf 0x0062C State.reset = some (.read 0x00000000 .ok) ∧
    readOf 0x00024 State.reset = some (.read 0x00000000 .ok) ∧
    readOf 0x00012 State.reset = some (.read 0x00000000 .error) := by decide

/-- X13. -/
theorem test_bus_misaligned_write :
    busWrite 0x00031 0xFFFFFFFF State.reset = { State.reset with reply := some (.write .error) } := by
  decide

/-- X14. -/
theorem test_bus_key_words :
    (busWrite 0x0003C 0x3C4FCF09 (busWrite 0x00038 0x8815F7AB (busWrite 0x00034 0xA6D2AE28
      (busWrite 0x00030 0x16157E2B State.reset)))).key =
    #v[0x2b, 0x7e, 0x15, 0x16, 0x28, 0xae, 0xd2, 0xa6, 0xab, 0xf7, 0x15, 0x88, 0x09, 0xcf, 0x4f, 0x3c] := by
  decide +kernel

/-- A command in flight: EXPAND_KEY has just been accepted. -/
def inFlight : State := stored 0x00000001 State.reset

/-- X15: a write while BUSY = 1. -/
theorem test_bus_write_while_busy :
    busWrite 0x00040 0x12345678 inFlight =
      { inFlight with
        status := { inFlight.status with wign := true }, reply := some (.write .ok) } :=
  busWrite_busy 0x12345678 (s := inFlight) rfl (off := 0x00040) rfl rfl

/-- X16: the ID register reads its constant while BUSY = 1. -/
theorem test_bus_id_while_busy : readOf 0x00000 inFlight = some (.read 0x41455331 .ok) := by
  decide

/-- X17. -/
theorem test_bus_in_window :
    memRead (busWrite 0x10000 0x44434241 State.reset) .inBuf 0 4 = [0x41, 0x42, 0x43, 0x44] ∧
    readOf 0x10000 (busWrite 0x10000 0x44434241 State.reset) = some (.read 0x44434241 .ok) := by decide

/-- X18. -/
theorem test_bus_out_window_is_read_only :
    (busWrite 0x20000 0xFFFFFFFF State.reset).mem = [] := by decide

/-- X19, X20. -/
theorem test_bus_reserved_bits :
    readOf 0x00008 (busWrite 0x00008 0xFFFFFFFF State.reset) = some (.read 0x00000001 .ok) ∧
    readOf 0x00014 (busWrite 0x00014 0x00000118 State.reset) = some (.read 0x00000018 .ok) := by decide

/-- N4: KEY_VALID is read-only. -/
theorem test_status_N4 :
    (busWrite 0x00010 0x00000002 { State.reset with
      status := { Status.reset with done := true, keyValid := true } }).status.toWord = 0x00000008 := by
  decide

/-- N5: the interrupt after a NOP, and its clearing. -/
theorem test_irq_N5 :
    ((after 0x00000000 { State.reset with irqEn := true }).map
      fun t => (t.irq, (busWrite 0x00010 0x2 t).irq)) = some (true, false) := by decide

/-- E2, E3, E4: the order of the checks. -/
theorem test_errors_in_order :
    (stored 0x00000102 { State.reset with keyLen := 0x18, inLen := 4097 }).status.toWord = 0x00000406 ∧
    (stored 0x00000002 { State.reset with keyLen := 0x18, inLen := 4097 }).status.toWord = 0x00000606 ∧
    (stored 0x00000002 { State.reset with keyLen := 0x18, inLen := 15 }).status.toWord = 0x00000106 ∧
    (stored 0x00000009 { State.reset with keyLen := 0x18 }).status.toWord = 0x00000706 := by decide

/-- R286: EXPAND_KEY takes 11 clocks, ENC_BLOCK 24 with an expansion, PAD of 17 bytes 3. -/
theorem test_cycle_counts :
    cycleCount .nop State.reset = 1 ∧ cycleCount .expandKey State.reset = 11 ∧
    cycleCount .encBlock { State.reset with inLen := 16 } = 24 ∧
    cycleCount .pad { State.reset with inLen := 17 } = 3 ∧
    cycleCount .unpad { State.reset with inLen := 17 } = 4 := by decide

/-- R280: a reset abandons the command in flight. -/
theorem test_reset_in_flight :
    (assertReset inFlight).status.toWord = 0 ∧ (assertReset inFlight).ctl.phase = .idle ∧
      (assertReset inFlight).irq = false ∧ (assertReset inFlight).epoch = 1 := by decide

/-- P1: the source lines expand to the bus transactions that the row lists. -/
theorem test_hostProgram_P1 :
    hostEvents (ldKeyLine
        #v[0x2b, 0x7e, 0x15, 0x16, 0x28, 0xae, 0xd2, 0xa6, 0xab, 0xf7, 0x15, 0x88, 0x09, 0xcf, 0x4f, 0x3c] ++
      ldInLine [0x32, 0x43, 0xf6, 0xa8, 0x88, 0x5a, 0x30, 0x8d, 0x31, 0x31, 0x98, 0xa2, 0xe0, 0x37, 0x07, 0x34] ++
      cmdLine .encBlock ++ waitLine ++ [.rd 0x20000 (some 0x1D842539)]) =
    [.write 0x00030 0x16157E2B, .write 0x00034 0xA6D2AE28, .write 0x00038 0x8815F7AB,
      .write 0x0003C 0x3C4FCF09, .write 0x00014 0x00000010, .write 0x10000 0xA8F64332,
      .write 0x10004 0x8D305A88, .write 0x10008 0xA2983131, .write 0x1000C 0x340737E0,
      .write 0x00018 0x00000010, .write 0x0000C 0x00000002, .read 0x00010, .read 0x20000] := by
  decide +kernel

/-- R100: the bytes of a last word past the length are written as 0; CLRST; WAIT's exit condition. -/
theorem test_hostProgram_lines :
    hostEvents (ldInLine [0x48, 0x65, 0x6c, 0x6c, 0x6f]) =
      [.write 0x10000 0x6C6C6548, .write 0x10004 0x0000006F, .write 0x00018 0x00000005] ∧
    hostEvents clrstLine = [.write 0x00010 0x00000036] ∧
    bneTaken 0x3 0x2 0x0000000A = false ∧ bneTaken 0x3 0x2 0x00000001 = true := by decide

/-! ## Witnesses: states and operands that meet the hypotheses of each statement -/

theorem ready_reset : Ready State.reset := ⟨rfl, rfl⟩

theorem consistent_inFlight : Consistent inFlight := by
  refine ⟨⟨rfl, ?_⟩, ?_, ⟨by decide, by decide⟩, ?_, by unfold OutLenOk; decide, by unfold ResetOk; decide⟩
  · intro c hc
    rw [show inFlight.mem = [] from rfl] at hc
    exact absurd hc (by simp)
  · intro h
    exact absurd h (by decide)
  · exact ⟨by decide, by decide, by decide, fun _ => ⟨by decide, by decide, .expandKey, by decide, by decide⟩⟩

theorem consistent_reset : Consistent State.reset := by
  refine ⟨⟨rfl, ?_⟩, ?_, ⟨by decide, by decide⟩, controllerOk_idle rfl rfl, by unfold OutLenOk; decide,
    by unfold ResetOk; decide⟩
  · intro c hc
    exact absurd hc (by simp [State.reset, State.resetWith])
  · intro h
    exact absurd h (by decide)

theorem witness_EncodedCommandsDecodeBack :
    (Instr.addRoundKey 10).wellFormed = true ∧ Instr.nop.wellFormed = true := by decide

theorem witness_DecodedWordsEncodeBack : decode 0x00000A17 = .command (.addRoundKey 10) := by decide

/-- One word for each clause, at its boundary. -/
theorem witness_IllegalWordsAreRejectedWithCode4 :
    Ready State.reset ∧ State.reset.ctl = Controller.idle ∧
    decode 0x00001000 = .illegal .reservedBits ∧ decode 0x0000000A = .illegal .reservedOpcode ∧
    decode 0x0000000F = .illegal .reservedOpcode ∧ decode 0x00000018 = .illegal .reservedOpcode ∧
    decode 0x00000110 = .illegal .roundNotZero ∧ decode 0x00000B17 = .illegal .roundOutOfRange :=
  ⟨ready_reset, rfl, by decide, by decide, by decide, by decide, by decide, by decide⟩

theorem witness_IdleReadsHaveNoSideEffect :
    Ready State.reset ∧ (0x3FFFC : Offset).toNat % 4 = 0 ∧ 0x3FFF < 0x4000 ∧
      4 * 1023 < bufBytes State.reset ∧ ¬ 4 * 1024 < bufBytes State.reset ∧
      4 * 1027 < bufBytes State.reset + 16 ∧ ¬ 4 * 1028 < bufBytes State.reset + 16 :=
  ⟨ready_reset, by decide⟩

theorem witness_MisalignedTransactionsHaveNoEffect :
    State.reset.inReset = false ∧ (0x3FFFF : Offset).toNat % 4 ≠ 0 ∧ (0x00001 : Offset).toNat % 4 ≠ 0 ∧
      (0x3FFFC : Offset).toNat % 4 = 0 := by decide

theorem witness_WritesWhileBusyOnlySetWign :
    inFlight.inReset = false ∧ inFlight.status.busy = true ∧ (0x3FFFC : Offset).toNat % 4 = 0 := by decide

/-- The last words of IN and OUT with the default BUF_BYTES. -/
theorem witness_ValuesArePackedLittleEndian :
    4 * 1023 < bufBytes State.reset ∧ 4 * 1027 < bufBytes State.reset + 16 := by decide

theorem witness_HostWritesChangeTheirRegisterOnly : Ready State.reset := ready_reset

theorem witness_InWindowWritesStoreFourBytes :
    Ready State.reset ∧ 0x3FFF < 0x4000 ∧ 4 * 1023 < bufBytes State.reset ∧
      bufBytes State.reset ≤ 4 * 1024 := ⟨ready_reset, by decide⟩

/-- The first and the last offset of each clause. -/
theorem witness_ReadOnlyOffsetsIgnoreWrites :
    Ready State.reset ∧
    ∀ a ∈ [0x00000, 0x00004, 0x0001C, 0x00060, 0x0006C, 0x00100, 0x001AC, 0x00400, 0x0063C, 0x20000, 0x2FFFC],
      a % 4 = 0 ∧ (a < 0x00008 ∨ a = 0x0001C ∨ (0x00060 ≤ a ∧ a < 0x00070) ∨
        (0x00100 ≤ a ∧ a < 0x001B0) ∨ (0x00400 ≤ a ∧ a < 0x00640) ∨ (0x20000 ≤ a ∧ a < 0x30000)) :=
  ⟨ready_reset, by decide⟩

/-- The first and the last word beyond OUT with the default BUF_BYTES, idle and busy. -/
theorem witness_wordsBeyondOut :
    State.reset.inReset = false ∧ inFlight.inReset = false ∧ inFlight.status.busy = true ∧
    ∀ a ∈ [0x21010, 0x2FFFC], a % 4 = 0 ∧ 0x20000 + (bufBytes State.reset + 16) ≤ a ∧
      0x20000 + (bufBytes inFlight + 16) ≤ a ∧ a < 0x30000 := by decide

/-- The first and the last offset of each clause, idle and busy. -/
theorem witness_ReservedOffsetsReadZeroAndIgnoreWrites :
    State.reset.inReset = false ∧ State.reset.status.busy = false ∧ inFlight.inReset = false ∧
    inFlight.status.busy = true ∧
    ∀ a ∈ [0x00024, 0x0002C, 0x00070, 0x000FC, 0x001B0, 0x003FC, 0x00640, 0x0FFFC, 0x30000, 0x3FFFC],
      a % 4 = 0 ∧ ((0x00024 ≤ a ∧ a < 0x00030) ∨ (0x00070 ≤ a ∧ a < 0x00100) ∨
        (0x001B0 ≤ a ∧ a < 0x00400) ∨ (0x00640 ≤ a ∧ a < 0x10000) ∨ 0x30000 ≤ a) := by decide

theorem witness_StatusFieldsAndWriteOneToClear :
    State.reset.inReset = false ∧ State.reset.status.busy = false ∧ inFlight.inReset = false ∧
      inFlight.status.busy = true := by decide

/-- An offset for each clause, at the ends of its window. -/
theorem witness_ReadsWhileBusy :
    inFlight.inReset = false ∧ inFlight.status.busy = true ∧ StatusOk inFlight ∧
    regAt 0x00018 = .inLen ∧ regAt 0x0003C = .key 3 ∧ regAt 0x0004C = .iv 3 ∧
    regAt 0x004FC = .sbox 63 ∧ regAt 0x005FC = .invSbox 63 ∧ regAt 0x0063C = .rcon 15 ∧
    regAt 0x1FFFC = .inWindow 0x3FFF ∧ regAt 0x0001C = .outLen ∧ regAt 0x0005C = .state 3 ∧
    regAt 0x0006C = .chain 3 ∧ regAt 0x001AC = .rk 43 ∧ regAt 0x2100C = .outWindow 1027 ∧
    4 * 1027 < bufBytes inFlight + 16 :=
  ⟨rfl, by decide, ⟨by decide, by decide⟩, by decide, by decide, by decide, by decide, by decide, by decide,
    by decide, by decide, by decide, by decide, by decide, by decide, by decide⟩

theorem witness_RomWindowsReadTheTables :
    State.reset.inReset = false ∧ State.reset.status.busy = false ∧
    ((0x00400 : Offset).toNat % 4 = 0 ∧ 0x00400 ≤ (0x00400 : Offset).toNat) ∧
    (0x0063C : Offset).toNat % 4 = 0 ∧ (0x0063C : Offset).toNat < 0x00640 :=
  ⟨rfl, rfl, ⟨rfl, by simp⟩, rfl, by simp⟩

theorem witness_StoringACommandWord :
    State.reset.inReset = false ∧ State.reset.status.busy = false ∧
    decode 0x0000000A = .illegal .reservedOpcode ∧
    decode 0x00000002 = .command .encBlock ∧
    checkPreconditions .encBlock State.reset = some .invalidBlockLength ∧
    decode 0x00000001 = .command .expandKey ∧ checkPreconditions .expandKey State.reset = none ∧
    inFlight.inReset = false ∧ inFlight.status.busy = true := by decide

/-- A state for each clause, at the boundary of its range. -/
theorem witness_PreconditionsAreCheckedInOrder :
    decode 0x00000118 = .illegal .reservedOpcode ∧
    (Instr.addRoundKey 11).wellFormed = false ∧ (Instr.addRoundKey 10).wellFormed = true ∧
    bufBytes { State.reset with inLen := 4097 } < ({ State.reset with inLen := 4097 } : State).inLen.toNat ∧
    ¬ bufBytes { State.reset with inLen := 4096 } < ({ State.reset with inLen := 4096 } : State).inLen.toNat ∧
    ({ State.reset with keyLen := 0x18 } : State).keyLen ≠ 16 ∧ State.reset.keyLen = 16 ∧
    checkPreconditions .pad { State.reset with inLen := 4097 } = some .bufferRange ∧
    checkPreconditions .pad { State.reset with inLen := 4096 } = none ∧
    checkPreconditions .ecbDec { State.reset with inLen := 4096 } = none ∧
    checkPreconditions (.addRoundKey 10) State.reset = some .noRoundKeys := by decide

theorem witness_FailedCommandsChangeCmdAndStatusOnly :
    checkPreconditions .encBlock State.reset = some .invalidBlockLength ∧
    Instr.encBlock.wellFormed = true ∧ Ready State.reset ∧ State.reset.ctl = Controller.idle :=
  ⟨by decide, rfl, ready_reset, rfl⟩

theorem witness_StepRunsTheCapturedCommand :
    let s := State.reset.withFetchWord 32 0x00000010
    s.inReset = false ∧ s.ctl.phase = .complete ∧ decode s.ctl.word = .command .gfMul ∧
      s.inputs = .clock :: [] ∧ ({ s with inputs := [] } : State).inputs = [] := by decide

theorem witness_StepServesTheOldestEvent :
    ({ State.reset with inputs := [.read 0x10] } : State).inputs = .read 0x10 :: [] ∧
    ({ State.reset with inputs := [.write 0x30 1] } : State).inputs = .write 0x30 1 :: [] ∧
    State.reset.inputs = [] ∧ State.reset.ctl.phase = .idle ∧
    inFlight.inputs = [] ∧ inFlight.inReset = false ∧ inFlight.ctl.phase ≠ .idle ∧
    inFlight.ctl.phase ≠ .complete ∧ decode inFlight.ctl.word = .command .expandKey := by decide

/-- The commands of OnlyWordOf: a state whose checks they pass at the store, and a word with the same OPCODE
that is another one. -/
theorem witness_OnlyWordOf :
    Ready { State.reset with inLen := 16 } ∧
    (∀ i ∈ ([.nop, .expandKey, .encBlock, .decBlock, .ecbEnc, .ecbDec, .cbcEnc, .cbcDec, .pad, .unpad, .gfMul,
        .subBytes, .invSubBytes, .shiftRows, .invShiftRows, .mixColumns, .invMixColumns] : List Instr),
      checkPreconditions i { State.reset with inLen := 16 } = none) ∧
    (0x00000110 : Word).toNat % 256 = (0x00000010 : Word).toNat % 256 ∧
    (0x80000010 : Word).toNat % 256 = (0x00000010 : Word).toNat % 256 ∧
    (0x00000110 : Word) ≠ 0x00000010 ∧ (0x80000010 : Word) ≠ 0x00000010 :=
  ⟨⟨rfl, rfl⟩, by decide⟩

theorem witness_NopChangesCmdAndStatusOnly :
    let s : State := { State.reset with irqEn := true }
    Ready s ∧ s.irqEn = true ∧ checkPreconditions .nop s = none ∧ ∃ t, exec .nop s = .next t :=
  ⟨⟨rfl, rfl⟩, rfl, rfl, _, exec_of_ok rfl⟩

theorem witness_AddRoundKeyXorsTheStoredRoundKey :
    (0x00000A17 : Word).toNat % 256 = 0x17 ∧ (0x00000A17 : Word).toNat / 256 ≤ 10 ∧
    (0x00000B17 : Word).toNat % 256 = 0x17 ∧ 11 ≤ (0x00000B17 : Word).toNat / 256 ∧
    (10 : BitVec 4).toNat ≤ 10 ∧ 11 ≤ (11 : BitVec 4).toNat ∧
    ({ State.reset with status := { Status.reset with keyValid := true } } : State).status.keyValid = true ∧
    State.reset.status.keyValid = false := by decide

theorem witness_ExpandKeyWritesTheSchedule :
    State.reset.keyLen = 16 ∧ ({ State.reset with keyLen := 17 } : State).keyLen ≠ 16 := by decide

/-- The hypotheses that the two block commands share. -/
theorem witness_blockCommands :
    State.reset.keyLen = 16 ∧ ({ State.reset with inLen := 16 } : State).inLen = 16 ∧
    bufBytes { State.reset with inLen := 4097 } < ({ State.reset with inLen := 4097 } : State).inLen.toNat ∧
    ({ State.reset with inLen := 4096, keyLen := 0 } : State).inLen.toNat ≤ bufBytes State.reset ∧
    ({ State.reset with inLen := 4096, keyLen := 0 } : State).keyLen ≠ 16 ∧
    ({ State.reset with inLen := 15 } : State).inLen.toNat ≤ bufBytes State.reset ∧
    ({ State.reset with inLen := 15 } : State).inLen ≠ 16 := by decide

theorem witness_EncBlockEncryptsOneBlock :
    State.reset.keyLen = 16 ∧ ({ State.reset with inLen := 16 } : State).inLen = 16 :=
  ⟨witness_blockCommands.1, witness_blockCommands.2.1⟩

theorem witness_DecBlockDecryptsOneBlock :
    State.reset.keyLen = 16 ∧ ({ State.reset with inLen := 16 } : State).inLen = 16 :=
  ⟨witness_blockCommands.1, witness_blockCommands.2.1⟩

theorem witness_PadAppendsThePadding :
    ({ State.reset with inLen := 4096 } : State).inLen.toNat ≤ bufBytes State.reset ∧
    bufBytes { State.reset with inLen := 4097 } < ({ State.reset with inLen := 4097 } : State).inLen.toNat := by
  decide

theorem witness_UnpadStripsWithTheGuard :
    ({ State.reset with inLen := 1 } : State).inLen.toNat ≤ bufBytes State.reset ∧
    ({ State.reset with inLen := 1 } : State).inLen.toNat ≠ 0 ∧ State.reset.inLen.toNat = 0 ∧
    bufBytes { State.reset with inLen := 4097 } < ({ State.reset with inLen := 4097 } : State).inLen.toNat := by
  decide

/-- The hypotheses that the two encryptions share: the empty message, and a full buffer. -/
theorem witness_EcbEncEncryptsTheMessage :
    State.reset.inLen = 0 ∧ State.reset.inLen.toNat ≤ bufBytes State.reset ∧ State.reset.keyLen = 16 ∧
    ([] : Bytes).length % 16 = 0 ∧ (List.replicate 17 0x41 : Bytes).length % 16 ≠ 0 ∧
    ((List.replicate 32 0x41 : Bytes).length % 16 = 0 ∧ 16 * 1 < (List.replicate 32 0x41 : Bytes).length) ∧
    ({ State.reset with inLen := 4096 } : State).inLen.toNat ≤ bufBytes State.reset ∧
    bufBytes { State.reset with inLen := 4097 } < ({ State.reset with inLen := 4097 } : State).inLen.toNat ∧
    ({ State.reset with keyLen := 0xFF } : State).keyLen ≠ 16 := by decide

theorem witness_CbcEncEncryptsTheMessage :
    State.reset.inLen = 0 ∧ State.reset.inLen.toNat ≤ bufBytes State.reset ∧ State.reset.keyLen = 16 ∧
    ∃ c previous, (c, previous) =
      cbcEncBytes (prepare (memRead State.reset .inBuf 0 State.reset.inLen.toNat))
        (keyExpansion State.reset.key) State.reset.iv :=
  ⟨rfl, by decide, rfl, _, _, rfl⟩

/-- The hypotheses that the two decryptions share, at both ends of the legal lengths. -/
theorem witness_EcbDecDecryptsAndUnpads :
    State.reset.keyLen = 16 ∧
    ((List.replicate 32 0x41 : Bytes).length % 16 = 0 ∧ 16 * 1 < (List.replicate 32 0x41 : Bytes).length) ∧
    (∀ n ∈ [16, 4096], n ≤ bufBytes State.reset ∧ n % 16 = 0 ∧ n ≠ 0 ∧
      ({ State.reset with inLen := BitVec.ofNat 32 n } : State).inLen.toNat = n) ∧
    bufBytes { State.reset with inLen := 4112 } < ({ State.reset with inLen := 4112 } : State).inLen.toNat ∧
    ({ State.reset with keyLen := 15 } : State).keyLen ≠ 16 ∧
    ({ State.reset with inLen := 20 } : State).inLen.toNat % 16 ≠ 0 ∧ State.reset.inLen.toNat = 0 := by decide

theorem witness_CbcDecDecryptsAndUnpads :
    let s : State := { State.reset with inLen := 16 }
    s.inLen.toNat ≤ bufBytes s ∧ s.keyLen = 16 ∧ s.inLen.toNat % 16 = 0 ∧ s.inLen.toNat ≠ 0 ∧
    ∃ p previous, (p, previous) =
      cbcDecBytes (memRead s .inBuf 0 s.inLen.toNat) (keyExpansion s.key) s.iv :=
  ⟨by decide, rfl, by decide, by decide, _, _, rfl⟩

theorem witness_RegistersNoCommandWrites :
    (∃ t, exec .nop State.reset = .next t) ∧ (∃ t, exec .encBlock State.reset = .next t) ∧
    Instr.nop ≠ .gfMul ∧ Instr.nop ≠ .cbcEnc ∧ Instr.nop ≠ .cbcDec ∧ readsIn .nop = false ∧
    usesKey .nop = false ∧ unpads .nop = false :=
  ⟨⟨_, exec_of_ok rfl⟩, ⟨_, exec_of_error (e := .invalidBlockLength) (by decide)⟩, by decide⟩

theorem witness_MemoryBytesCommandsLeaveUnchanged :
    (∃ t, exec .pad State.reset = .next t) ∧ (∃ t, exec .encBlock State.reset = .next t) ∧
    checkPreconditions .encBlock State.reset ≠ none ∧ checkPreconditions .pad State.reset = none ∧
    usesKey .pad = false ∧ readsIn .pad = true ∧ outBytesWritten .pad State.reset = 16 ∧
    0x20000 + outBytesWritten .pad State.reset ≤ 0x20010 :=
  ⟨⟨_, exec_of_ok (by decide)⟩, ⟨_, exec_of_error (e := .invalidBlockLength) (by decide)⟩, by decide⟩

theorem witness_MemWriteReadsBack :
    0x0FFFF < Space.inBuf.base + 0 ∧ Space.inBuf.base + 0 + ([1, 2] : Bytes).length ≤ 0x10002 ∧
      Memory.wf State.reset.mem = true := by decide

/-- A step that sets KEY_VALID, one that clears it by a write to the last word of KEY, and one that clears it by a reset. -/
theorem witness_KeyValidChangesOnlyAsStated :
    let v : State := { State.reset with status := { Status.reset with keyValid := true } }
    usesKey .expandKey = true ∧ checkPreconditions .expandKey State.reset = none ∧
    (∃ t, exec .expandKey State.reset = .next t) ∧ Ready State.reset ∧
    (0x0003C : Offset).toNat % 4 = 0 ∧ (0x00030 ≤ (0x0003C : Offset).toNat ∧ (0x0003C : Offset).toNat < 0x00040) ∧
    (∃ t, step { v with inputs := [.write 0x0003C 1] } = .next t ∧ t.status.keyValid = false) ∧
    (∃ t, step { v with inputs := [.assertReset] } = .next t ∧ t.status.keyValid = false) ∧
    (∃ t, step (State.reset.withFetchWord 32 1) = .next t ∧ t.status.keyValid = true) :=
  ⟨rfl, by decide, ⟨_, exec_of_ok (by decide)⟩, ready_reset, by decide, by decide, ⟨_, rfl, by decide⟩,
    ⟨_, rfl, by decide⟩, ⟨_, rfl, by decide⟩⟩

theorem witness_StatusShowsBusyOrDoneAfterAStore :
    Ready State.reset ∧
    (∃ t, step inFlight = .next t) ∧ inFlight.inReset = false ∧
    inFlight.status.busy ≠ inFlight.status.done ∧ inFlight.inputs = [] ∧
    ({ inFlight with inputs := [.clock] } : State).inputs = .clock :: [] ∧
    ({ inFlight with inputs := [.read 0x10] } : State).inputs = .read 0x10 :: [] ∧
    (inFlight.status.busy = false → inFlight.ctl = Controller.idle) :=
  ⟨ready_reset, ⟨_, rfl⟩, rfl, by decide, rfl, rfl, rfl, by decide⟩

theorem witness_IrqIsEnableAndDone :
    Ready State.reset ∧ (0x00000002 : Word).getLsbD 1 = true ∧ (0xFFFFFFFE : Word).getLsbD 0 = false ∧
    decode 0x00000000 = .command .nop ∧ checkPreconditions .nop State.reset = none ∧
    ∃ t, exec .nop State.reset = .next t :=
  ⟨ready_reset, by decide, by decide, by decide, rfl, _, exec_of_ok rfl⟩

theorem witness_ResetEventAbandonsEverything :
    ({ inFlight with inputs := [.assertReset] } : State).inputs = .assertReset :: [] ∧
    (assertReset State.reset).inReset = true ∧ (assertReset State.reset).inputs = [] ∧
    ({ assertReset State.reset with inputs := [.releaseReset] } : State).inputs = .releaseReset :: [] := by
  decide

theorem witness_EveryStepKeepsTheInvariant :
    Consistent State.reset ∧ step State.reset = .next State.reset ∧ Consistent inFlight ∧
      ∃ t, step inFlight = .next t :=
  ⟨consistent_reset, rfl, consistent_inFlight, _, rfl⟩

theorem witness_AcceptedCommandsNeverFail :
    Consistent inFlight ∧ inFlight.status.busy = true ∧ ∃ t, step inFlight = .next t :=
  ⟨consistent_inFlight, by decide, _, rfl⟩

theorem witness_ClocksFromStoreToCompletionAreExec :
    Ready State.reset ∧ State.reset.inputs = [] ∧ checkPreconditions .expandKey State.reset = none :=
  ⟨ready_reset, rfl, by decide⟩

theorem witness_TransactionsWhileBusyDoNotChangeTheResult :
    let events : List BusEvent := .write 0x00030 1 :: .read 0x20000 :: List.replicate 10 .clock
    Ready State.reset ∧ checkPreconditions .expandKey State.reset = none ∧
    events.all isNotReset = true ∧ events.countP (· == .clock) + 1 = cycleCount .expandKey State.reset :=
  ⟨ready_reset, by decide, by decide, by decide⟩

theorem witness_RoundStepsComputeTheCipher :
    ({ State.reset with ctl := { Controller.idle with phase := .init } } : State).ctl.phase = .init ∧
    engine .encBlock = .encipher ∧ engine .cbcDec = .decipher := by decide

theorem witness_ControllerArrivesAtTheResult :
    Ready State.reset ∧ RoundKeysOk State.reset ∧ State.reset.inputs = [] ∧
    checkPreconditions .expandKey State.reset = none ∧ usesKey .expandKey = true ∧
    checkPreconditions .pad State.reset = none ∧ readsIn .pad = true :=
  ⟨ready_reset, consistent_reset.2.1, rfl, by decide, rfl, by decide, rfl⟩

theorem witness_GfFieldLaws : (0x53 : Byte) ≠ 0 ∧ gfMul 0x53 0xca = 0x01 := by decide

theorem witness_SBoxIsTheAffineMapOfTheInverse :
    (0x53 : Byte) ≠ 0 ∧ (0x00 : Byte) = 0 ∧ (1 ≤ 9 ∧ 9 ≤ 9) ∧ 11 ≤ 11 := by decide

/-- The column `db 13 53 45` of R161's example. -/
theorem witness_RoundPrimitivesAreInvertible :
    ∃ (s : Block) (c : Fin 4) (a0 a1 a2 a3 : Byte),
      a0 = s[4 * c.val] ∧ a1 = s[4 * c.val + 1] ∧ a2 = s[4 * c.val + 2] ∧ a3 = s[4 * c.val + 3] :=
  ⟨#v[0xdb, 0x13, 0x53, 0x45, 0xf2, 0x0a, 0x22, 0x5c, 0x01, 0x01, 0x01, 0x01, 0xc6, 0xc6, 0xc6, 0xc6], 0,
    0xdb, 0x13, 0x53, 0x45, rfl, rfl, rfl, rfl⟩

theorem witness_KeyExpansionFollowsTheRecurrence :
    (4 ≤ 43 ∧ 43 < 44 ∧ 43 % 4 ≠ 0) ∧ (4 ≤ 4 ∧ 4 < 44 ∧ 4 % 4 = 0) ∧ 10 ≤ 10 ∧
      ∃ t : KeyWord, t = scheduleWord (keyExpansion keyV2) (4 - 1) :=
  ⟨by decide, by decide, by decide, _, rfl⟩

/-- The counts at both ends of each clause's range, on two bytes. -/
theorem witness_UnpadGuardFallsBackOnAnEmptyResult :
    ([0x41, 0x01] : Bytes) ≠ [] ∧
    (1 ≤ (([0x41, 0x01] : Bytes).getLastD 0).toNat ∧ (([0x41, 0x01] : Bytes).getLastD 0).toNat < 2) ∧
    (([0x41, 0x00] : Bytes).getLastD 0).toNat = 0 ∧ 2 ≤ (([0x41, 0x02] : Bytes).getLastD 0).toNat ∧
    unpadRaw [0x41, 0x02] = [] ∧ unpadRaw [0x41, 0x01] ≠ [] := by decide

theorem witness_PaddingRoundTrip :
    ([0x10] : Bytes) ≠ [] ∧ 15 = 16 - ([0x10] : Bytes).length % 16 ∧ 16 = 16 - ([] : Bytes).length % 16 := by
  decide

/-- The empty sequence and one of two blocks. -/
theorem witness_CbcEncryptionChains :
    (∀ d ∈ ([[], List.replicate 32 0x41] : List Bytes), d.length % 16 = 0 ∧
      ∃ c previous, cbcEncBytes d [] ones = (c, previous)) ∧
    16 * 1 < (List.replicate 32 0x41 : Bytes).length :=
  ⟨fun d hd => ⟨(by decide : ∀ d ∈ ([[], List.replicate 32 0x41] : List Bytes), d.length % 16 = 0) d hd,
    _, _, rfl⟩, by decide⟩

theorem witness_CbcDecryptionChains :
    (∀ c ∈ ([[], List.replicate 32 0x41] : List Bytes), c.length % 16 = 0 ∧
      ∃ p previous, cbcDecBytes c [] ones = (p, previous)) ∧
    16 * 1 < (List.replicate 32 0x41 : Bytes).length ∧ (List.replicate 32 0x41 : Bytes) ≠ [] :=
  ⟨fun c hc => ⟨(by decide : ∀ c ∈ ([[], List.replicate 32 0x41] : List Bytes), c.length % 16 = 0) c hc,
    _, _, rfl⟩, by decide, by decide⟩

/-- A message for each clause, its last byte at both ends of its range. -/
theorem witness_ModeRoundTrips :
    ([0x41] : Bytes).length % 16 ≠ 0 ∧
    (∀ b ∈ ([0x00, 0x10] : Bytes), (List.replicate 15 0x41 ++ [b]).length % 16 = 0 ∧
      (((List.replicate 15 0x41 ++ [b]).getLastD 0).toNat = 0 ∨
        (List.replicate 15 0x41 ++ [b]).length ≤ ((List.replicate 15 0x41 ++ [b]).getLastD 0).toNat)) ∧
    (∀ b ∈ ([0x01, 0x0f] : Bytes), (List.replicate 15 0x41 ++ [b]).length % 16 = 0 ∧
      ¬ (((List.replicate 15 0x41 ++ [b]).getLastD 0).toNat = 0 ∨
        (List.replicate 15 0x41 ++ [b]).length ≤ ((List.replicate 15 0x41 ++ [b]).getLastD 0).toNat)) ∧
    ∃ p, p = ecbDecBytes (ecbEncBytes (prepare [0x41]) (keyExpansion keyV2)) (keyExpansion keyV2) :=
  ⟨by decide, by decide, by decide, _, rfl⟩

theorem witness_EcbIsDeterministicPerBlock :
    let d : Bytes := List.replicate 32 0x41
    d.length % 16 = 0 ∧ 16 * 0 + 16 ≤ d.length ∧ 16 * 1 + 16 ≤ d.length ∧
      slice d (16 * 0) 16 = slice d (16 * 1) 16 := by decide

end Sys2Proof.Tests
end

section
/-! SUPPORT. The settled statements of 10_state.md: reserved offsets (R42), STATUS (R25), reads while BUSY (R48),
KEY_VALID (R29) and the ROM windows (R41). The rules they share come first: the bits of a read, and the bits of
the STATUS and GF words. -/

namespace Sys2Proof.Machine

/-! ## The bits of a read -/

/-- Each bit of a read is the draw's where the bit is unspecified, and the register's own elsewhere (R48). -/
theorem readReg_getLsbD (s : State) (r : Reg) (i : Nat) :
    (readReg s r).getLsbD i =
      if (unspecifiedBits s r).getLsbD i then (Config.busyDraw s.draws).getLsbD i
      else (regValue s r).getLsbD i := by
  by_cases hu : unspecifiedBits s r = 0
  · simp [readReg_exact hu, hu]
  · rw [readReg_draw hu]
    by_cases hi : i < 32
    · simp only [BitVec.getLsbD_or, BitVec.getLsbD_and, BitVec.getLsbD_not, hi, decide_true]
      cases (unspecifiedBits s r).getLsbD i <;> simp
    · simp [BitVec.getLsbD_of_ge _ _ (Nat.le_of_not_lt hi)]

/-- A field with no unspecified bit reads as the register holds it. -/
theorem readReg_field_exact {s : State} {r : Reg} {a n : Nat}
    (h : (unspecifiedBits s r).extractLsb' a n = 0) :
    (readReg s r).extractLsb' a n = (regValue s r).extractLsb' a n := by
  apply BitVec.eq_of_getLsbD_eq
  intro i hi
  have hm := congrArg (·.getLsbD i) h
  simp only [BitVec.getLsbD_extractLsb', hi, decide_true, Bool.true_and] at hm ⊢
  simp [readReg_getLsbD, hm]

/-- A field whose bits are all unspecified reads as the draw's. -/
theorem readReg_field_draw {s : State} {r : Reg} {a n : Nat}
    (h : (unspecifiedBits s r).extractLsb' a n = BitVec.allOnes n) :
    (readReg s r).extractLsb' a n = (Config.busyDraw s.draws).extractLsb' a n := by
  apply BitVec.eq_of_getLsbD_eq
  intro i hi
  have hm := congrArg (·.getLsbD i) h
  simp only [BitVec.getLsbD_extractLsb', hi, decide_true, Bool.true_and, BitVec.getLsbD_allOnes] at hm ⊢
  simp [readReg_getLsbD, hm]

/-- A register all of whose bits are unspecified reads as the draw. -/
theorem readReg_all_draw {s : State} {r : Reg} (h : unspecifiedBits s r = 0xFFFFFFFF) :
    readReg s r = Config.busyDraw s.draws := by
  have hw := readReg_field_draw (s := s) (r := r) (a := 0) (n := 32) (by rw [h]; decide)
  simpa using hw

theorem unspecifiedBits_busy {s : State} (hb : s.status.busy = true) (r : Reg) :
    unspecifiedBits s r = drawMask s r := if_pos hb

/-- A register that R48 does not list reads exactly, BUSY or not. -/
theorem unspecifiedBits_of_drawMask_zero {s : State} {r : Reg} (h : drawMask s r = 0) :
    unspecifiedBits s r = 0 := by
  simp [unspecifiedBits, h]

/-- A read with an unspecified bit takes the next draw. -/
theorem busRead_draw {s : State} {off : Offset} (hr : s.inReset = false) (ha : off.toNat % 4 = 0)
    (hu : unspecifiedBits s (regAt off.toNat) ≠ 0) :
    busRead off s =
      { s with reply := some (.read (readReg s (regAt off.toNat)) .ok), draws := s.draws + 1 } := by
  rw [busRead_aligned hr ha, if_neg hu]

/-- A write to a register that takes no write leaves only the response. -/
theorem busWrite_ignored {s : State} {off : Offset} {d : Word} (hr : s.inReset = false)
    (ha : off.toNat % 4 = 0) (hb : s.status.busy = false)
    (hw : writeReg (regAt off.toNat) d s = s) :
    busWrite off d s = { s with reply := some (.write .ok) } := by
  rw [busWrite_idle d hr ha hb, hw]

/-! ## The words of STATUS and GF -/

theorem flagBit_getLsbD (b : Bool) {k i : Nat} (hi : i < 32) :
    (flagBit b k).getLsbD i = (b && decide (i = k)) := by
  cases b with
  | false => simp [flagBit]
  | true =>
    simp only [flagBit, if_true, ← BitVec.twoPow_eq, BitVec.getLsbD_twoPow, Bool.true_and]
    simp [eq_comm]; omega

/-- STATUS bit by bit: six flags, and ERR_CODE from bit 8 on (R25). -/
theorem status_toWord_getLsbD (st : Status) {i : Nat} (hi : i < 32) :
    st.toWord.getLsbD i =
      (st.busy && decide (i = 0) || st.done && decide (i = 1) || st.err && decide (i = 2) ||
        st.keyValid && decide (i = 3) || st.padFallback && decide (i = 4) ||
        st.wign && decide (i = 5) || decide (8 ≤ i) && st.errCode.code.getLsbD (i - 8)) := by
  simp only [Status.toWord, BitVec.getLsbD_or, flagBit_getLsbD _ hi, BitVec.getLsbD_shiftLeft,
    BitVec.getLsbD_setWidth, BitVec.truncate_eq_setWidth, hi, decide_true, Bool.true_and, ← decide_not, Nat.not_lt,
    show i - 8 < 32 by omega]

theorem status_toWord_reserved_low (st : Status) : st.toWord.extractLsb' 6 2 = 0 := by
  apply BitVec.eq_of_getLsbD_eq
  intro i hi
  rw [BitVec.getLsbD_extractLsb', status_toWord_getLsbD st (by omega)]
  simp; omega

theorem status_toWord_errCode (st : Status) : st.toWord.extractLsb' 8 4 = st.errCode.code := by
  apply BitVec.eq_of_getLsbD_eq
  intro i hi
  rw [BitVec.getLsbD_extractLsb', status_toWord_getLsbD st (by omega)]
  have : ∀ k < 8, 8 + i ≠ k := by omega
  simp [hi, this]

theorem status_toWord_reserved_high (st : Status) : st.toWord.extractLsb' 12 20 = 0 := by
  apply BitVec.eq_of_getLsbD_eq
  intro i hi
  rw [BitVec.getLsbD_extractLsb', status_toWord_getLsbD st (by omega),
    BitVec.getLsbD_of_ge st.errCode.code _ (by omega)]
  simp; omega

/-- The reserved byte of GF reads 0, so the word packs A, B, P and 0 (R38). -/
theorem gf_toWord_eq_packWord (g : GfReg) : g.toWord = packWord g.a g.b g.p 0 := by
  simp [GfReg.toWord, packWord]

/-! ## Reserved offsets (R42) -/

/-- Settles O13: every offset of the ranges selects the reserved register, whose value and unspecified bits are 0
and whose write changes nothing. -/
theorem reservedOffsetsReadZeroAndIgnoreWrites :
    Obligations.ReservedOffsetsReadZeroAndIgnoreWrites := by
  unfold Obligations.ReservedOffsetsReadZeroAndIgnoreWrites
  intro s off d hr ha hoff
  have hreg : regAt off.toNat = .reserved := regAt_reserved ha hoff
  refine ⟨?_, fun hb => ?_, fun hb => busWrite_busy d hr ha hb⟩
  · rw [busRead_exact hr ha (by rw [hreg]; exact unspecifiedBits_of_drawMask_zero rfl), hreg]
    rfl
  · exact busWrite_ignored hr ha hb (by rw [hreg]; rfl)

/-! ## STATUS (R25) -/

/-- The write-one-to-clear write, each flag by its own bit. -/
theorem status_w1c_eq (st : Status) (w : Word) :
    st.w1c w =
      { st with
        done := if w.getLsbD 1 then false else st.done
        err := if w.getLsbD 2 then false else st.err
        errCode := if w.getLsbD 2 then .none else st.errCode
        padFallback := if w.getLsbD 4 then false else st.padFallback
        wign := if w.getLsbD 5 then false else st.wign } := by
  have hclear (f b : Bool) : (f && !b) = if b then false else f := by cases b <;> simp
  simp only [Status.w1c, hclear]

theorem resetWith_status_value (n : Fin 4095) : regValue (State.resetWith n) .status = 0 :=
  (by decide : Status.reset.toWord = 0)

/-- Settles O14, from the bits of the STATUS word and the W1C write flag by flag. -/
theorem statusFieldsAndWriteOneToClear : Obligations.StatusFieldsAndWriteOneToClear := by
  unfold Obligations.StatusFieldsAndWriteOneToClear
  refine ⟨by decide, fun s => ?_, resetWith_status_value, fun s w hr => ⟨fun hb => ?_, fun hb => ?_⟩⟩
  · have hbit (i : Nat) (hi : i < 32) := status_toWord_getLsbD s.status hi
    refine ⟨?_, ?_, ?_, ?_, ?_, ?_, status_toWord_reserved_low _, status_toWord_errCode _,
      status_toWord_reserved_high _⟩ <;>
    · rw [regValue, hbit _ (by decide)]
      simp
  · rw [busWrite_idle w hr rfl hb, ← status_w1c_eq]
    rfl
  · exact busWrite_busy w hr rfl hb

/-! ## Reads while BUSY (R48) -/

/-- The registers R48 lists as exact have no unspecified bit. -/
theorem drawMask_exact {s : State} {r : Reg}
    (h : r ∈ [.id, .param, .ctrl, .cmd, .keyLen, .inLen] ∨ (∃ k, r = .key k) ∨ (∃ k, r = .iv k) ∨
      (∃ k, r = .sbox k) ∨ (∃ k, r = .invSbox k) ∨ (∃ k, r = .rcon k) ∨ (∃ k, r = .inWindow k)) :
    drawMask s r = 0 := by
  rcases h with h | ⟨k, rfl⟩ | ⟨k, rfl⟩ | ⟨k, rfl⟩ | ⟨k, rfl⟩ | ⟨k, rfl⟩ | ⟨k, rfl⟩
  case inl => fin_cases h <;> rfl
  all_goals rfl

/-- The registers R48 lists as unspecified have no exact bit. -/
theorem drawMask_all {s : State} {r : Reg}
    (h : r = .outLen ∨ (∃ k, r = .state k) ∨ (∃ k, r = .chain k) ∨ (∃ k, r = .rk k) ∨
      (∃ k, r = .outWindow k ∧ 4 * k < bufBytes s + 16)) :
    drawMask s r = 0xFFFFFFFF := by
  rcases h with rfl | ⟨k, rfl⟩ | ⟨k, rfl⟩ | ⟨k, rfl⟩ | ⟨k, rfl, hk⟩
  case inr.inr.inr.inr => exact if_pos hk
  all_goals rfl

/-- STATUS while BUSY: bit 0 is BUSY, bit 3 the draw's, bit 5 WIGN, and no other bit is set. -/
theorem readStatus_busy_getLsbD {s : State} (hb : s.status.busy = true) (hst : StatusOk s) {i : Nat}
    (hi : i < 32) :
    (readReg s .status).getLsbD i =
      if i = 3 then (Config.busyDraw s.draws).getLsbD 3
      else (decide (i = 0) || s.status.wign && decide (i = 5)) := by
  obtain ⟨herr, hflags⟩ := hst
  obtain ⟨hdone, herr0, hpad⟩ := hflags hb
  have hcode : s.status.errCode = .none := herr.1 herr0
  have hm : (unspecifiedBits s .status).getLsbD i = decide (i = 3) := by
    rw [unspecifiedBits_busy hb, drawMask]
    exact (BitVec.getLsbD_twoPow 3 i).trans (by simp [eq_comm])
  rw [readReg_getLsbD, hm]
  by_cases h3 : i = 3
  · simp [h3]
  · rw [regValue, status_toWord_getLsbD _ hi, hb, hdone, herr0, hpad, hcode]
    simp [h3, ErrCode.code]

/-- STATUS while BUSY reads 0 from bit 6 on: ERR_CODE and the reserved bits. -/
theorem readStatus_busy_field_zero {s : State} (hb : s.status.busy = true) (hst : StatusOk s)
    {a n : Nat} (h6 : 6 ≤ a) (hn : a + n ≤ 32) : (readReg s .status).extractLsb' a n = 0 := by
  apply BitVec.eq_of_getLsbD_eq
  intro i hi
  rw [BitVec.getLsbD_extractLsb', readStatus_busy_getLsbD hb hst (by omega), if_neg (by omega)]
  simp; omega

/-- Settles O15, from the mask of unspecified bits of each register and the bits of a masked read. -/
theorem readsWhileBusy : Obligations.ReadsWhileBusy := by
  unfold Obligations.ReadsWhileBusy
  intro s hr hb hst
  have hu (r : Reg) : unspecifiedBits s r = drawMask s r := unspecifiedBits_busy hb r
  refine ⟨fun off ha hreg => ?_, fun off ha hreg => ?_, ⟨readReg s .status, ?_, ?_⟩,
    ⟨readReg s .gf, ?_, ?_⟩⟩
  · exact busRead_exact hr ha (unspecifiedBits_of_drawMask_zero (drawMask_exact hreg))
  · have hall : unspecifiedBits s (regAt off.toNat) = 0xFFFFFFFF := by rw [hu, drawMask_all hreg]
    rw [busRead_draw hr ha (by rw [hall]; decide), readReg_all_draw hall]
  · exact busRead_draw hr rfl (by rw [hu]; exact (by decide : (0x00000008 : Word) ≠ 0))
  · have hbit (i : Nat) (hi : i < 32) := readStatus_busy_getLsbD hb hst hi
    have hzero {a n : Nat} := readStatus_busy_field_zero (a := a) (n := n) hb hst
    refine ⟨?_, ?_, ?_, ?_, ?_, ?_, hzero (by decide) (by decide), hzero (by decide) (by decide),
      hzero (by decide) (by decide)⟩ <;>
    · rw [hbit _ (by decide)]
      simp
  · exact busRead_draw hr rfl (by rw [hu]; exact (by decide : (0x00FF0000 : Word) ≠ 0))
  · have hfield (a : Nat) (h : (0x00FF0000 : Word).extractLsb' a 8 = 0) :
        (readReg s .gf).extractLsb' a 8 = (packWord s.gf.a s.gf.b s.gf.p 0).extractLsb' a 8 := by
      rw [readReg_field_exact (by rw [hu]; exact h), regValue, gf_toWord_eq_packWord]
    refine ⟨?_, ?_, readReg_field_draw (by rw [hu, drawMask]; decide), ?_⟩
    · exact (hfield 0 (by decide)).trans (wordByte_packWord_0 ..)
    · exact (hfield 8 (by decide)).trans (wordByte_packWord_1 ..)
    · exact (hfield 24 (by decide)).trans (wordByte_packWord_3 ..)

/-! ## What moves KEY_VALID (R29) -/

theorem regAt_keyLen : regAt 0x00014 = .keyLen := rfl

theorem regAt_key_of_mem {a : Nat} (ha : a % 4 = 0) (h : 0x00030 ≤ a ∧ a < 0x00040) :
    ∃ k, regAt a = .key k := by
  refine ⟨⟨(a - 0x00030) / 4, by omega⟩, ?_⟩
  rw [← regAt_key]
  congr 1
  simp only
  omega

/-- The registers whose write clears KEY_VALID stand at KEY_LEN's and KEY0..KEY3's offsets only. -/
theorem offset_of_regAt_key {a : Nat} (h : regAt a = .keyLen ∨ ∃ k, regAt a = .key k) :
    a = 0x00014 ∨ (0x00030 ≤ a ∧ a < 0x00040) := by
  rcases h with h | ⟨k, h⟩
  all_goals
    simp only [regAt, ite_eq_iff, reduceCtorEq, and_false, false_or, or_false] at h
    omega

/-- A store of a command word never moves KEY_VALID, whichever way it ends. -/
theorem storeCommand_keyValid (w : Word) (s : State) :
    (storeCommand w s).status.keyValid = s.status.keyValid := by
  obtain ⟨e, -, h⟩ | ⟨i, -, -, h⟩ := storeCommand_cases w s <;> rw [h] <;> rfl

/-- A write clears KEY_VALID where it is one to KEY_LEN or KEY, and keeps it elsewhere. -/
theorem writeReg_keyValid (r : Reg) (d : Word) (s : State) :
    ((r = .keyLen ∨ ∃ k, r = .key k) ∧ (writeReg r d s).status.keyValid = false) ∨
      (writeReg r d s).status.keyValid = s.status.keyValid := by
  cases r with
  | keyLen => exact .inl ⟨.inl rfl, rfl⟩
  | key k => exact .inl ⟨.inr ⟨k, rfl⟩, rfl⟩
  | cmd => exact .inr (storeCommand_keyValid d s)
  | inWindow k => right; simp only [writeReg]; split <;> rfl
  | _ => exact .inr rfl

theorem busRead_status (off : Offset) (s : State) : (busRead off s).status = s.status := by
  unfold busRead
  repeat' split
  all_goals rfl

/-- A write that moves KEY_VALID is an accepted one to KEY_LEN or KEY, and clears it. -/
theorem busWrite_keyValid {off : Offset} {d : Word} {s : State}
    (h : (busWrite off d s).status.keyValid ≠ s.status.keyValid) :
    Ready s ∧ (off.toNat = 0x00014 ∨ (0x00030 ≤ off.toNat ∧ off.toNat < 0x00040)) ∧
      (busWrite off d s).status.keyValid = false := by
  cases hr : s.inReset with
  | true => rw [busWrite_reset off d hr] at h; exact absurd rfl h
  | false =>
    by_cases ha : off.toNat % 4 = 0
    · cases hb : s.status.busy with
      | true => rw [busWrite_busy d hr ha hb] at h; exact absurd rfl h
      | false =>
        rw [busWrite_idle d hr ha hb] at h ⊢
        obtain ⟨hreg, hv⟩ | hv := writeReg_keyValid (regAt off.toNat) d s
        · exact ⟨⟨hb, hr⟩, offset_of_regAt_key hreg, hv⟩
        · exact absurd hv h
    · rw [busWrite_misaligned d hr ha] at h; exact absurd rfl h

/-- A command whose checks pass sets KEY_VALID where it uses the key. -/
theorem exec_ok_keyValid {i : Instr} {s t : State} (hc : checkPreconditions i s = none)
    (h : exec i s = .next t) : t.status.keyValid = (s.status.keyValid || usesKey i) := by
  rw [exec_of_ok hc] at h
  cases h
  obtain ⟨f, hf, -⟩ := commandEffect_status i (storeWord (encode i) s)
  simp [hf]

/-- A command that moves KEY_VALID is a successful one that uses the key, and sets it. -/
theorem exec_keyValid {i : Instr} {s t : State} (h : exec i s = .next t)
    (hv : t.status.keyValid ≠ s.status.keyValid) :
    usesKey i = true ∧ checkPreconditions i s = none ∧ t.status.keyValid = true := by
  obtain ⟨e, -, rfl⟩ | ⟨hc, -⟩ := exec_cases h
  · exact absurd rfl hv
  · have ht := exec_ok_keyValid hc h
    cases hk : usesKey i <;> simp_all

/-- A clock that moves KEY_VALID is the completion of a command that uses the key. -/
theorem clockStep_keyValid {s t : State} (h : clockStep exec s = .next t)
    (hv : t.status.keyValid ≠ s.status.keyValid) :
    ∃ i, decode s.ctl.word = .command i ∧ usesKey i = true ∧ s.ctl.phase = .complete ∧
      checkPreconditions i s = none ∧ t.status.keyValid = true := by
  obtain rfl | ⟨-, hp, i, hd, he⟩ | ⟨-, -, -, i, -, rfl⟩ | ⟨-, -, -, rfl⟩ := clockStep_cases h
  · exact absurd rfl hv
  · obtain ⟨hk, hc, ht⟩ := exec_keyValid he hv
    exact ⟨i, hd, hk, hp, hc, ht⟩
  · exact absurd rfl hv
  · exact absurd rfl hv

/-- Settles O39, by the event the step serves: a read and the release of reset keep KEY_VALID, and each of the
others moves it in its one way. -/
theorem keyValidChangesOnlyAsStated : Obligations.KeyValidChangesOnlyAsStated := by
  unfold Obligations.KeyValidChangesOnlyAsStated
  refine ⟨fun i s t hk hc h => ?_, fun s off d hs ha hoff => ?_, fun s => rfl, fun s t h hv => ?_⟩
  · simp [exec_ok_keyValid hc h, hk]
  · obtain ⟨hb, hr⟩ := hs
    rw [busWrite_idle d hr ha hb]
    obtain hoff | hoff := hoff
    · rw [hoff, regAt_keyLen]; rfl
    · obtain ⟨k, hk⟩ := regAt_key_of_mem ha hoff
      rw [hk]; rfl
  · obtain ⟨-, hclk⟩ | ⟨e, rest, hin, he⟩ := step_cases h
    · exact .inr (.inr (clockStep_keyValid hclk hv))
    · cases e with
      | read off => cases he; exact absurd (congrArg _ (busRead_status ..)) hv
      | write off d =>
        cases he
        obtain ⟨hs, hoff, hf⟩ := busWrite_keyValid (s := { s with inputs := rest }) hv
        exact .inl ⟨off, d, rest, hin, hs, hoff, hf⟩
      | clock => exact .inr (.inr (clockStep_keyValid (s := { s with inputs := rest }) he hv))
      | assertReset => cases he; exact .inr (.inl ⟨rest, hin, rfl⟩)
      | releaseReset => cases he; exact absurd rfl hv

/-! ## The ROM windows (R41) -/

/-- An aligned offset of the ROM windows selects a table's word. -/
theorem regAt_rom {a : Nat} (ha : a % 4 = 0) (h1 : 0x00400 ≤ a) (h2 : a < 0x00640) :
    (∃ k, regAt a = .sbox k) ∨ (∃ k, regAt a = .invSbox k) ∨ ∃ k, regAt a = .rcon k := by
  rcases Nat.lt_or_ge a 0x00500 with hs | hs
  · refine .inl ⟨⟨(a - 0x00400) / 4, by omega⟩, ?_⟩
    rw [← regAt_sbox]; congr 1; simp only; omega
  · rcases Nat.lt_or_ge a 0x00600 with hi | hi
    · refine .inr (.inl ⟨⟨(a - 0x00500) / 4, by omega⟩, ?_⟩)
      rw [← regAt_invSbox]; congr 1; simp only; omega
    · refine .inr (.inr ⟨⟨(a - 0x00600) / 4, by omega⟩, ?_⟩)
      rw [← regAt_rcon]; congr 1; simp only; omega

/-- A read at the offset of a register that R48 does not list answers its value, BUSY or not. -/
theorem busRead_reply_exact {s : State} {a : Nat} {r : Reg} (hr : s.inReset = false)
    (ha : a % 4 = 0) (hlt : a < 2 ^ 18) (hreg : regAt a = r) (hm : drawMask s r = 0) :
    (busRead (BitVec.ofNat 18 a) s).reply = some (.read (regValue s r) .ok) := by
  have hn : (BitVec.ofNat 18 a).toNat = a := by simpa using Nat.mod_eq_of_lt hlt
  subst hreg
  rw [busRead_exact hr (by rw [hn]; exact ha)
    (by rw [hn]; exact unspecifiedBits_of_drawMask_zero hm), hn]

/-- RCON[0] and RCON[11..15] read 0. -/
theorem rcon_word_eq (k : Fin 16) :
    (rcon k.val).zeroExtend 32 = if k.val = 0 ∨ 11 ≤ k.val then 0 else (rcon k.val).zeroExtend 32 := by
  revert k; decide

/-- Settles O16: the ROM registers have no unspecified bit and take no write. -/
theorem romWindowsReadTheTables : Obligations.RomWindowsReadTheTables := by
  unfold Obligations.RomWindowsReadTheTables
  intro s hr
  refine ⟨fun k => ⟨?_, ?_⟩, fun k => ?_, fun off d hb ha h1 h2 => ?_⟩
  · exact busRead_reply_exact hr (by omega) (by omega) (regAt_sbox k) rfl
  · exact busRead_reply_exact hr (by omega) (by omega) (regAt_invSbox k) rfl
  · rw [busRead_reply_exact hr (by omega) (by omega) (regAt_rcon k) rfl, ← rcon_word_eq]
    rfl
  · refine busWrite_ignored hr ha hb ?_
    obtain ⟨k, hk⟩ | ⟨k, hk⟩ | ⟨k, hk⟩ := regAt_rom ha h1 h2 <;> rw [hk] <;> rfl

end Sys2Proof.Machine
end

section
/-! SUPPORT. The settled statements of 20_memory.md: the packing of multi-byte values (R61), misaligned
transactions (R64) and writes while BUSY (R66). -/

namespace Sys2Proof.Machine

/-! ## Packing (R61) -/

/-- Byte j of word k of a 16-byte group is the group's byte 4k + j. -/
theorem wordByte_blockWord (b : Block) (k j : Fin 4) :
    wordByte (blockWord b k) j.val = b[4 * k.val + j.val] :=
  wordByte_packWord (fun i => b[4 * k.val + i.val]) j

/-- Byte j of word k of a RAM space is the space's byte 4k + j. -/
theorem wordByte_ramWord (s : State) (sp : Space) (k : Nat) (j : Fin 4) :
    wordByte (ramWord s sp k) j.val = byteAt s (sp.base + (4 * k + j.val)) := by
  rw [← Nat.add_assoc]
  exact wordByte_packWord (fun i => byteAt s (sp.base + 4 * k + i.val)) j

/-- Byte j of word k of a byte table's window is the table's entry 4k + j. -/
theorem wordByte_tableWord (table : Byte → Byte) (k : Nat) (j : Fin 4) :
    wordByte (packWord (table (BitVec.ofNat 8 (4 * k))) (table (BitVec.ofNat 8 (4 * k + 1)))
      (table (BitVec.ofNat 8 (4 * k + 2))) (table (BitVec.ofNat 8 (4 * k + 3)))) j.val =
      table (BitVec.ofNat 8 (4 * k + j.val)) :=
  wordByte_packWord (fun i => table (BitVec.ofNat 8 (4 * k + i.val))) j

/-- A word of the IN window below BUF_BYTES is IN's. -/
theorem regValue_inWindow {s : State} {k : Nat} (h : 4 * k < bufBytes s) :
    regValue s (.inWindow k) = ramWord s .inBuf k := if_pos h

/-- A word of the OUT window below BUF_BYTES + 16 is OUT's. -/
theorem regValue_outWindow {s : State} {k : Nat} (h : 4 * k < bufBytes s + 16) :
    regValue s (.outWindow k) = ramWord s .outBuf k := if_pos h

/-- A write of word k of a 16-byte group puts the word's bytes into the group's bytes 4k + j and leaves the
bytes of the other words. -/
theorem setBlockWord_byte (b : Block) (k j i : Fin 4) (w : Word) :
    (setBlockWord b k w)[4 * i.val + j.val] =
      if i = k then wordByte w j.val else b[4 * i.val + j.val] := by
  have hword : (4 * i.val + j.val) / 4 = i.val := by omega
  have hbyte : (4 * i.val + j.val) % 4 = j.val := by omega
  simp only [setBlockWord_get, hword, hbyte, Fin.ext_iff]

/-- Settles O9, from byte j of a packed word: of a 16-byte group, of a RAM space and of a table. -/
theorem valuesArePackedLittleEndian : Obligations.ValuesArePackedLittleEndian := by
  unfold Obligations.ValuesArePackedLittleEndian
  refine ⟨fun s k j => ⟨?_, ?_, ?_, ?_⟩, fun s k j => ?_, fun s k j h => ?_, fun s k j h => ?_,
    fun s k j => ⟨?_, ?_⟩, ?_⟩
  · exact wordByte_blockWord s.key k j
  · exact wordByte_blockWord s.iv k j
  · exact wordByte_blockWord s.cipherState k j
  · exact wordByte_blockWord s.chain k j
  · exact wordByte_ramWord s .rk k.val j
  · rw [regValue_inWindow h]
    exact wordByte_ramWord s .inBuf k j
  · rw [regValue_outWindow h]
    exact wordByte_ramWord s .outBuf k j
  · exact wordByte_tableWord sBox k.val j
  · exact wordByte_tableWord invSBox k.val j
  · exact setBlockWord_byte

/-! ## Responses (R64, R66) -/

/-- An aligned write outside reset is answered OK, BUSY or not. -/
theorem busWrite_reply_aligned {s : State} {off : Offset} (d : Word) (hr : s.inReset = false)
    (ha : off.toNat % 4 = 0) : (busWrite off d s).reply = some (.write .ok) := by
  cases hb : s.status.busy with
  | true => rw [busWrite_busy d hr ha hb]
  | false => rw [busWrite_idle d hr ha hb]

/-- Settles O7: alignment alone decides the response, and a misaligned transaction reaches no register. -/
theorem misalignedTransactionsHaveNoEffect : Obligations.MisalignedTransactionsHaveNoEffect := by
  unfold Obligations.MisalignedTransactionsHaveNoEffect
  intro s off d hr
  refine ⟨fun ha => ⟨busRead_misaligned hr ha, busWrite_misaligned d hr ha⟩, fun ha => ⟨?_, ?_⟩⟩
  · exact ⟨readReg s (regAt off.toNat), by rw [busRead_aligned hr ha]⟩
  · exact busWrite_reply_aligned d hr ha

/-- Settles O8: the write is ignored before its offset selects a register, and only WIGN records it. -/
theorem writesWhileBusyOnlySetWign : Obligations.WritesWhileBusyOnlySetWign := by
  unfold Obligations.WritesWhileBusyOnlySetWign
  intro s off d hr hb ha
  exact busWrite_busy d hr ha hb

end Sys2Proof.Machine
end

section
/-! SUPPORT. The settled statements of 30_encoding.md: the illegal words and their store (R96). The numeric value of
each field of a command word and the inversion of the decoder come first. -/

namespace Sys2Proof

/-! ## The fields of a command word (R91) -/

theorem opcodeField_toNat (w : Word) : (opcodeField w).toNat = w.toNat % 256 := by
  simp [opcodeField]

theorem roundField_toNat (w : Word) : (roundField w).toNat = w.toNat / 256 % 16 := by
  simp [roundField, Nat.shiftRight_eq_div_pow]

/-- RSVD is the top field, so its value needs no reduction. -/
theorem reservedField_toNat (w : Word) : (reservedField w).toNat = w.toNat / 4096 := by
  have hw := w.isLt
  simp only [reservedField, BitVec.extractLsb'_toNat, Nat.shiftRight_eq_div_pow]
  omega

/-! ## The decoder (R95, R96) -/

/-- The opcodes that are no plain command: the two reserved ranges, and 0x17, which is ADD_ROUND_KEY's. -/
theorem plainCommand_eq_none_iff (op : BitVec 8) :
    plainCommand op = none ↔ (0x0A ≤ op.toNat ∧ op.toNat ≤ 0x0F) ∨ 0x17 ≤ op.toNat := by
  revert op; decide

/-- The decoder rejects a word where R95's branches do: at RSVD, at ADD_ROUND_KEY's ROUND, and at the OPCODE or the
ROUND of every other command. -/
theorem decode_illegal_iff (w : Word) :
    (∃ why, decode w = .illegal why) ↔
      reservedField w ≠ 0#20 ∨ (opcodeField w = 0x17#8 ∧ 10 < (roundField w).toNat) ∨
        (opcodeField w ≠ 0x17#8 ∧ (plainCommand (opcodeField w) = none ∨ roundField w ≠ 0#4)) := by
  unfold decode
  by_cases hres : reservedField w = 0#20
  · by_cases hop : opcodeField w = 0x17#8
    · by_cases hround : (roundField w).toNat ≤ 10 <;> simp [hres, hop, hround, ← not_le]
    · cases plainCommand (opcodeField w) with
      | none => simp [hres, hop]
      | some i => by_cases hround : roundField w = 0#4 <;> simp [hres, hop, hround]
  · simp [hres]

end Sys2Proof

namespace Sys2Proof.Machine

/-! ## The rejection of a stored word (R252) -/

/-- A store that ends in an error leaves the word in CMD and the error in STATUS. -/
theorem raiseError_storeWord (e : ErrCode) (w : Word) (s : State) :
    raiseError e (storeWord w s) =
      { s with cmd := w, status := failedStatus s e, ctl := Controller.idle } := rfl

/-- The store of an illegal word while the core is idle. -/
theorem busWrite_cmd_illegal {s : State} {w : Word} {why : IllegalReason} (hs : Ready s)
    (hd : decode w = .illegal why) :
    busWrite 0x0000C w s =
      { s with cmd := w, status := failedStatus s .illegalCommand, ctl := Controller.idle,
               reply := some (.write .ok) } := by
  obtain ⟨hb, hr⟩ := hs
  rw [busWrite_cmd w hr hb, storeCommand_illegal s hd, raiseError_storeWord]

/-- Settles O3: the decoder's rejections are R96's list field by field, and a rejected store leaves an idle
controller as it was. -/
theorem illegalWordsAreRejectedWithCode4 : Obligations.IllegalWordsAreRejectedWithCode4 := by
  unfold Obligations.IllegalWordsAreRejectedWithCode4
  refine ⟨fun w => ?_, fun s w why hs hidle hd => ?_⟩
  · simp only [decode_illegal_iff, plainCommand_eq_none_iff, ne_eq, BitVec.toNat_eq, opcodeField_toNat,
      roundField_toNat, reservedField_toNat, BitVec.toNat_ofNat]
    omega
  · rw [busWrite_cmd_illegal hs hd, ← hidle]

end Sys2Proof.Machine
end

section
/-! SUPPORT. The settled statement of 40_command_control.md: NOP (R116). What the store and the completion do, and the
one word of a command with ROUND 0, hold of every such command and come first. -/

namespace Sys2Proof.Machine

/-! ## The one word of a command with ROUND 0 (R94, R96) -/

/-- A store that passes the checks leaves STATUS accepted. -/
theorem busWrite_cmd_accepted_status {s : State} {w : Word} {i : Instr} (hs : Ready s)
    (hd : decode w = .command i) (hc : checkPreconditions i s = none) :
    (busWrite 0x0000C w s).status = acceptedStatus s := by
  obtain ⟨hb, hr⟩ := hs
  rw [busWrite_cmd w hr hb, storeCommand_ok hd hc]
  rfl

theorem rejectedWithCode4_of_illegal {w : Word} {why : IllegalReason} (hd : decode w = .illegal why) :
    RejectedWithCode4 w :=
  ⟨⟨why, hd⟩, fun _ hs => busWrite_cmd_illegal hs hd⟩

/-- A word below ADD_ROUND_KEY's OPCODE is an OPCODE alone. Another word with that OPCODE has a ROUND or an RSVD that
is not 0, so R96 lists it. -/
theorem decode_illegal_of_same_opcode {w w' : Word} (hw : w.toNat < 0x17)
    (hop : w'.toNat % 256 = w.toNat % 256) (hne : w' ≠ w) : ∃ why, decode w' = .illegal why := by
  have hval : w'.toNat ≠ w.toNat := fun h => hne (BitVec.eq_of_toNat_eq h)
  obtain ⟨hillegal, -⟩ := illegalWordsAreRejectedWithCode4
  rw [hillegal]
  omega

/-- A command whose word is its OPCODE alone, one below ADD_ROUND_KEY's, has no other word. -/
theorem onlyWordOf_of_decode {w : Word} {i : Instr} (hw : w.toNat < 0x17) (he : encode i = w)
    (hd : decode w = .command i) : OnlyWordOf w i := by
  refine ⟨he, hd, fun _ hs hc => busWrite_cmd_accepted_status hs hd hc, fun w' hop hne => ?_⟩
  obtain ⟨why, hillegal⟩ := decode_illegal_of_same_opcode hw hop hne
  exact rejectedWithCode4_of_illegal hillegal

/-! ## NOP (R116) -/

/-- A completion right after the store, with no effect between them, changes CMD and STATUS and frees the
controller. -/
theorem finish_storeWord (w : Word) (s : State) :
    finish (storeWord w s) =
      { s with cmd := w, status := doneStatus s s.status.keyValid false, ctl := Controller.idle } := rfl

theorem checkPreconditions_nop (s : State) : checkPreconditions .nop s = none := rfl

/-- NOP has no effect of its own: its completion is that of its store. -/
theorem exec_nop (s : State) : exec .nop s = .next (finish (storeWord 0x00000000 s)) :=
  exec_of_ok (checkPreconditions_nop s)

/-- Settles O23: no check rejects NOP and its effect is the identity, so it ends as its store leaves it, with DONE
set. -/
theorem nopChangesCmdAndStatusOnly : Obligations.NopChangesCmdAndStatusOnly := by
  unfold Obligations.NopChangesCmdAndStatusOnly
  refine ⟨onlyWordOf_of_decode (by decide) (by decide) (by decide), fun s => ⟨?_, fun hirq t h => ?_⟩⟩
  · rw [exec_nop, finish_storeWord]
  · rw [exec_nop, finish_storeWord] at h
    cases h
    simp [State.irq, hirq, doneStatus]

end Sys2Proof.Machine
end

section
/-! SUPPORT. The settled statement of 41_constants_gf.md: GF_MUL (R137). -/

namespace Sys2Proof.Machine

theorem checkPreconditions_gfMul (s : State) : checkPreconditions .gfMul s = none := rfl

/-- The completion of GF_MUL, whose operands are A and B as the store left them, puts their product into P. -/
theorem exec_gfMul (s : State) :
    exec .gfMul s =
      .next (finish (setProduct (gfMul s.gf.a s.gf.b) (storeWord 0x00000010 s))) :=
  exec_of_ok (checkPreconditions_gfMul s)

/-- A completion right after the write of GF.P changes GF.P, and CMD and STATUS as every completion does. -/
theorem finish_setProduct_storeWord (p : Byte) (w : Word) (s : State) :
    finish (setProduct p (storeWord w s)) =
      { s with cmd := w, status := doneStatus s s.status.keyValid false,
               gf := { a := s.gf.a, b := s.gf.b, p := p }, ctl := Controller.idle } := rfl

/-- Settles O24: the command's word is its OPCODE alone, no check rejects GF_MUL, and its effect writes GF.P only. -/
theorem gfMulWritesTheProduct : Obligations.GfMulWritesTheProduct := by
  unfold Obligations.GfMulWritesTheProduct
  refine ⟨onlyWordOf_of_decode (by decide) (by decide) (by decide), fun s => ?_⟩
  rw [exec_gfMul, finish_setProduct_storeWord]

end Sys2Proof.Machine
end

section
/-! SUPPORT. The settled statements of 42_round_primitives.md: the six diagnostic commands with ROUND 0 (R157 to R162)
and ADD_ROUND_KEY (R163). All seven write STATE only, so what that write leaves after the store comes first. -/

namespace Sys2Proof.Machine

/-- A completion right after the write of STATE changes STATE, and CMD and STATUS as every completion does. -/
theorem finish_setCipherState_storeWord (b : Block) (w : Word) (s : State) :
    finish (setCipherState b (storeWord w s)) =
      { s with cmd := w, status := doneStatus s s.status.keyValid false, cipherState := b,
               ctl := Controller.idle } := rfl

/-- A failed check is the whole of a command: it ends in that check's error and performs no effect (R252). -/
theorem failsWith_of_error {i : Instr} {s : State} {e : ErrCode} (h : checkPreconditions i s = some e) :
    FailsWith i s e := by
  rw [FailsWith, exec_of_error h, raiseError_storeWord]

/-! ## The diagnostic commands with ROUND 0 (R157 to R162) -/

/-- A command whose checks pass and whose effect is a function of STATE replaces STATE by it. -/
theorem exec_of_stateEffect {i : Instr} {w : Word} {f : Block → Block} {s : State} (he : encode i = w)
    (hc : checkPreconditions i s = none) (hf : commandEffect i = stateEffect f) :
    exec i s =
      .next { s with cmd := w, status := doneStatus s s.status.keyValid false,
                     cipherState := f s.cipherState, ctl := Controller.idle } := by
  rw [exec_of_ok hc, hf, he, stateEffect, storeWord_cipherState, finish_setCipherState_storeWord]

/-- Settles O25: each command's word is its OPCODE alone, no check rejects it, and its effect is its function of
STATE. -/
theorem diagnosticCommandsTransformState : Obligations.DiagnosticCommandsTransformState := by
  unfold Obligations.DiagnosticCommandsTransformState
  constructor
  · refine ⟨?_, ?_, ?_, ?_, ?_, ?_⟩ <;> exact onlyWordOf_of_decode (by decide) (by decide) (by decide)
  · intro s
    refine ⟨?_, ?_, ?_, ?_, ?_, ?_⟩ <;> exact exec_of_stateEffect (by decide) rfl rfl

/-! ## ADD_ROUND_KEY (R163) -/

/-- A word with ADD_ROUND_KEY's OPCODE and nothing above it but a ROUND of 0..10 is that round's command. -/
theorem decode_addRoundKey {w : Word} (hop : w.toNat % 256 = 0x17) (hround : w.toNat / 256 ≤ 10) :
    decode w = .command (.addRoundKey (BitVec.ofNat 4 (w.toNat / 256))) := by
  have hres : reservedField w = 0#20 :=
    BitVec.eq_of_toNat_eq (by rw [reservedField_toNat, BitVec.toNat_ofNat]; omega)
  have hopcode : opcodeField w = 0x17#8 := BitVec.eq_of_toNat_eq (by rw [opcodeField_toNat, hop]; rfl)
  have hfield : roundField w = BitVec.ofNat 4 (w.toNat / 256) :=
    BitVec.eq_of_toNat_eq (by rw [roundField_toNat, BitVec.toNat_ofNat])
  have hle : (roundField w).toNat ≤ 10 := by rw [roundField_toNat]; omega
  simp [decode, hres, hopcode, hle, ← hfield]

/-- ADD_ROUND_KEY reads no IN and does not use the key, so its checks are its ROUND's and KEY_VALID's, in that
order (R251). -/
theorem checkPreconditions_addRoundKey (r : BitVec 4) (s : State) :
    checkPreconditions (.addRoundKey r) s =
      if 11 ≤ r.toNat then some .illegalCommand
      else if s.status.keyValid = false then some .noRoundKeys
      else none := by
  simp [checkPreconditions, Instr.wellFormed, readsIn, usesKey, shapeError, Nat.succ_le_iff]

/-- ADD_ROUND_KEY, its checks passed, XORs the round key that RK holds into STATE. -/
theorem exec_addRoundKey {r : BitVec 4} {s : State} (hc : checkPreconditions (.addRoundKey r) s = none) :
    exec (.addRoundKey r) s =
      .next { s with cmd := encode (.addRoundKey r), status := doneStatus s s.status.keyValid false,
                     cipherState := addRoundKey s.cipherState (storedRoundKey s r.toNat),
                     ctl := Controller.idle } := by
  rw [exec_of_ok hc, commandEffect, addRoundKeyEffect, storeWord_cipherState, storedRoundKey_storeWord,
    finish_setCipherState_storeWord]

/-- Settles O26: what lies above OPCODE is the ROUND alone or makes the word illegal, and of the two checks that
are ADD_ROUND_KEY's the first to fail gives the error. -/
theorem addRoundKeyXorsTheStoredRoundKey : Obligations.AddRoundKeyXorsTheStoredRoundKey := by
  unfold Obligations.AddRoundKeyXorsTheStoredRoundKey
  refine ⟨fun w hop => ⟨decode_addRoundKey hop, fun hround => ?_⟩, fun s r => ⟨fun hr hv => ?_, fun hr => ?_,
    fun hr hv => ?_⟩⟩
  · obtain ⟨hillegal, -⟩ := illegalWordsAreRejectedWithCode4
    obtain ⟨why, hd⟩ : ∃ why, decode w = .illegal why := by rw [hillegal]; omega
    exact rejectedWithCode4_of_illegal hd
  · have hc : checkPreconditions (.addRoundKey r) s = none := by
      rw [checkPreconditions_addRoundKey, if_neg (by omega), if_neg (by simp [hv])]
    rw [exec_addRoundKey hc, hv]
    rfl
  · exact failsWith_of_error (by rw [checkPreconditions_addRoundKey, if_pos hr])
  · exact failsWith_of_error (by rw [checkPreconditions_addRoundKey, if_neg (by omega), if_pos hv])

end Sys2Proof.Machine
end

section
/-! SUPPORT. The settled statements of 43_key_schedule.md: the recurrence of the schedule (R170) and EXPAND_KEY (R174).
A schedule only grows, so a word of it is that of any earlier schedule which already holds it; that comes first. -/

namespace Sys2Proof.Machine

/-! ## Words of a growing schedule -/

/-- A word that a schedule holds in full stays the same in every longer one. -/
theorem scheduleWord_of_prefix {w v : Bytes} {i : Nat} (h : w <+: v) (hi : 4 * i + 4 ≤ w.length) :
    scheduleWord v i = scheduleWord w i := by
  obtain ⟨u, rfl⟩ := h
  refine Vector.ext fun j hj => ?_
  simp only [scheduleWord, Vector.getElem_ofFn]
  exact List.getD_append _ _ _ _ (by omega)

/-- The word appended to i words is word i. -/
theorem scheduleWord_append_toList {w : Bytes} {i : Nat} (t : KeyWord) (h : w.length = 4 * i) :
    scheduleWord (w ++ t.toList) i = t := by
  refine Vector.ext fun j hj => ?_
  simp only [scheduleWord, Vector.getElem_ofFn]
  rw [List.getD_append_right _ _ _ _ (by omega), h, Nat.add_sub_cancel_left]
  simp [List.getD, hj]

theorem prefix_appendWord (w : Bytes) : w <+: appendWord w := List.prefix_append ..

theorem prefix_appendWords (n : Nat) (w : Bytes) : w <+: appendWords n w := by
  induction n generalizing w with
  | zero => exact List.prefix_rfl
  | succ n ih => exact (prefix_appendWord w).trans (ih (appendWord w))

/-! ## The recurrence (R170) -/

theorem scheduleWord_appendWord {w : Bytes} {i : Nat} (h : w.length = 4 * i) :
    scheduleWord (appendWord w) i =
      xorWord (scheduleTemp i (scheduleWord w (i - 1))) (scheduleWord w (i - 4)) := by
  have hi : w.length / 4 = i := by omega
  rw [appendWord, hi, scheduleWord_append_toList _ h]

/-- Every word appended to a schedule of k words obeys the recurrence over the finished schedule. -/
theorem scheduleWord_appendWords {n k i : Nat} {w : Bytes} (h : w.length = 4 * k) (hk : 0 < k) (hki : k ≤ i)
    (hi : i < k + n) :
    scheduleWord (appendWords n w) i =
      xorWord (scheduleTemp i (scheduleWord (appendWords n w) (i - 1)))
        (scheduleWord (appendWords n w) (i - 4)) := by
  induction n generalizing w k with
  | zero => omega
  | succ n ih =>
    have hlen : (appendWord w).length = 4 * (k + 1) := by rw [appendWord_length]; omega
    rcases Nat.eq_or_lt_of_le hki with rfl | hlt
    · have hnew : appendWord w <+: appendWords (n + 1) w := prefix_appendWords n (appendWord w)
      have hold : w <+: appendWords (n + 1) w := prefix_appendWords (n + 1) w
      rw [scheduleWord_of_prefix hnew (by omega), scheduleWord_of_prefix hold (by omega),
        scheduleWord_of_prefix hold (by omega), scheduleWord_appendWord h]
    · exact ih hlen (by omega) hlt (by omega)

/-- The key is the first four words, and the forty appended to it obey the recurrence. -/
theorem scheduleWord_keyExpansion (key : Block) {i : Nat} (h4 : 4 ≤ i) (h44 : i < 44) :
    scheduleWord (keyExpansion key) i =
      xorWord (scheduleTemp i (scheduleWord (keyExpansion key) (i - 1)))
        (scheduleWord (keyExpansion key) (i - 4)) :=
  scheduleWord_appendWords (blockBytes_length key) (by omega) h4 h44

/-- Where 4 divides i the previous word is rotated, substituted and XORed with Rcon. -/
theorem scheduleTemp_of_dvd {i : Nat} (t : KeyWord) (h : i % 4 = 0) :
    scheduleTemp i t = #v[sBox t[1] ^^^ rcon (i / 4), sBox t[2], sBox t[3], sBox t[0]] :=
  if_pos h

theorem scheduleTemp_of_not_dvd {i : Nat} (t : KeyWord) (h : i % 4 ≠ 0) : scheduleTemp i t = t := if_neg h

/-- A schedule begins with its key. -/
theorem keyExpansion_getD (key : Block) {j : Nat} (h : j < 16) : (keyExpansion key).getD j 0 = key[j] := by
  obtain ⟨u, hu⟩ : blockBytes key <+: keyExpansion key := prefix_appendWords 40 (blockBytes key)
  rw [← hu, List.getD_append _ _ _ _ (by rw [blockBytes_length]; exact h), blockBytes_getD _ _ h]

theorem roundKey_get (rk : Bytes) (r : Nat) {j : Nat} (h : j < 16) :
    (roundKey rk r)[j] = rk.getD (16 * r + j) 0 := by
  rw [roundKey, blockOfBytes_get _ _ h, slice_getD _ _ _ _ h]

/-- Settles O53: each appended word obeys the recurrence when it is appended, and no later word changes an earlier
one. -/
theorem keyExpansionFollowsTheRecurrence : Obligations.KeyExpansionFollowsTheRecurrence := by
  unfold Obligations.KeyExpansionFollowsTheRecurrence
  intro key
  refine ⟨keyExpansion_length key, fun j => keyExpansion_getD key j.isLt, fun i h4 h44 => ⟨fun h => ?_, ?_⟩,
    fun r j _ => roundKey_get _ r j.isLt⟩
  · rw [scheduleWord_keyExpansion key h4 h44, scheduleTemp_of_not_dvd _ h]
  · rintro h t rfl
    rw [scheduleWord_keyExpansion key h4 h44, scheduleTemp_of_dvd _ h]

/-! ## EXPAND_KEY (R174) -/

/-- EXPAND_KEY reads no IN and any message's shape suits it, so its one check is KEY_LEN's (R251). -/
theorem checkPreconditions_expandKey (s : State) :
    checkPreconditions .expandKey s = if s.keyLen ≠ 16 then some .invalidKeyLength else none := by
  simp [checkPreconditions, Instr.wellFormed, readsIn, usesKey, shapeError]

/-- A completion right after the write of a schedule changes RK and KEY_VALID, and CMD and STATUS as every completion
does. -/
theorem finish_writeSchedule_storeWord (rk : Bytes) (w : Word) (s : State) :
    finish (writeSchedule rk (storeWord w s)) =
      { s with cmd := w, status := doneStatus s true false, mem := memSetBytes s.mem 0x00100 rk,
               ctl := Controller.idle } := rfl

/-- EXPAND_KEY, its check passed, writes the schedule of the KEY that the store left as it was. -/
theorem exec_expandKey {s : State} (hc : checkPreconditions .expandKey s = none) :
    exec .expandKey s =
      .next (finish (writeSchedule (keyExpansion s.key) (storeWord 0x00000001 s))) :=
  exec_of_ok hc

/-- Settles O27: the command's word is its OPCODE alone, KEY_LEN decides its one check, and its effect writes RK and
KEY_VALID only. -/
theorem expandKeyWritesTheSchedule : Obligations.ExpandKeyWritesTheSchedule := by
  unfold Obligations.ExpandKeyWritesTheSchedule
  refine ⟨onlyWordOf_of_decode (by decide) (by decide) (by decide), fun s => ⟨fun hk => ?_, fun hk => ?_⟩⟩
  · have hc : checkPreconditions .expandKey s = none := by
      rw [checkPreconditions_expandKey, if_neg (not_not.2 hk)]
    rw [exec_expandKey hc, finish_writeSchedule_storeWord]
  · exact failsWith_of_error (by rw [checkPreconditions_expandKey, if_pos hk])

end Sys2Proof.Machine
end

section
/-! SUPPORT. The settled statements of 44_block_cipher.md: ENC_BLOCK (R196) and DEC_BLOCK (R197). The two make the same
checks and end in the same writes, so both are proved once of a block command and its block function. -/

namespace Sys2Proof.Machine

/-! ## The checks of a block command (R196, R197) -/

/-- Every buffer holds at least one block (00_scope.md R13). -/
theorem sixteen_le_bufBytes (s : State) : 16 ≤ bufBytes s := by
  unfold bufBytes
  omega

/-- A block command reads IN, uses the key and takes one block, so its checks are those of codes 6, 1 and 2 in that
order (R251). -/
theorem checkPreconditions_blockCommand {i : Instr} (hi : i = .encBlock ∨ i = .decBlock) (s : State) :
    checkPreconditions i s =
      if bufBytes s < s.inLen.toNat then some .bufferRange
      else if s.keyLen ≠ 16 then some .invalidKeyLength
      else if s.inLen.toNat ≠ 16 then some .invalidBlockLength
      else none := by
  obtain rfl | rfl := hi <;> simp [checkPreconditions, Instr.wellFormed, readsIn, usesKey, shapeError]

/-- The checks pass for a 16-byte key and a 16-byte input, since no buffer is smaller than one block. -/
theorem checkPreconditions_blockCommand_none {i : Instr} (hi : i = .encBlock ∨ i = .decBlock) {s : State}
    (hk : s.keyLen = 16) (hl : s.inLen = 16) : checkPreconditions i s = none := by
  have hlen : s.inLen.toNat = 16 := by rw [hl]; rfl
  have hbuf : ¬ bufBytes s < s.inLen.toNat := by rw [hlen]; exact Nat.not_lt.2 (sixteen_le_bufBytes s)
  rw [checkPreconditions_blockCommand hi, if_neg hbuf, if_neg (not_not.2 hk), if_neg (not_not.2 hlen)]

/-- The first of a block command's checks to fail gives the error. -/
theorem failsWith_blockCommand {i : Instr} (hi : i = .encBlock ∨ i = .decBlock) (s : State) :
    (bufBytes s < s.inLen.toNat → FailsWith i s .bufferRange) ∧
    (s.inLen.toNat ≤ bufBytes s → s.keyLen ≠ 16 → FailsWith i s .invalidKeyLength) ∧
    (s.inLen.toNat ≤ bufBytes s → s.keyLen = 16 → s.inLen ≠ 16 → FailsWith i s .invalidBlockLength) := by
  refine ⟨fun hb => ?_, fun hb hk => ?_, fun hb hk hl => ?_⟩ <;>
    refine failsWith_of_error ((checkPreconditions_blockCommand hi s).trans ?_)
  · rw [if_pos hb]
  · rw [if_neg (Nat.not_lt.2 hb), if_pos hk]
  · have hlen : s.inLen.toNat ≠ 16 := fun h => hl (BitVec.eq_of_toNat_eq h)
    rw [if_neg (Nat.not_lt.2 hb), if_neg (not_not.2 hk), if_pos hlen]

/-! ## The completion of a block command (R196, R197) -/

/-- A completion right after a block effect changes RK, OUT, OUT_LEN, STATE and KEY_VALID, and CMD and STATUS as every
completion does. The effect's operands are as the store left them, that is, as they were before it. -/
theorem finish_blockEffect_storeWord (f : Block → Bytes → Block) (w : Word) (s : State) :
    finish (blockEffect f (storeWord w s)) =
      { s with
        cmd := w
        status := doneStatus s true false
        mem := memSetBytes (memSetBytes s.mem 0x00100 (keyExpansion s.key)) 0x20000
          (blockBytes (f (blockOfBytes (memRead s .inBuf 0 16)) (keyExpansion s.key)))
        outLen := 16
        cipherState := f (blockOfBytes (memRead s .inBuf 0 16)) (keyExpansion s.key)
        ctl := Controller.idle } := by
  rw [blockEffect_eq, memRead_storeWord, storeWord_key, storeWord_mem]
  rfl

/-- A block command, its checks passed, applies its block function to the first block of IN under the schedule of
KEY. -/
theorem exec_of_blockEffect {i : Instr} {w : Word} {f : Block → Bytes → Block} {s : State} (he : encode i = w)
    (hc : checkPreconditions i s = none) (hf : commandEffect i = blockEffect f) :
    exec i s = .next (finish (blockEffect f (storeWord w s))) := by
  rw [exec_of_ok hc, hf, he]

/-- Settles O28: the command's word is its OPCODE alone, its checks are a block command's, and its block function is
the Cipher. -/
theorem encBlockEncryptsOneBlock : Obligations.EncBlockEncryptsOneBlock := by
  unfold Obligations.EncBlockEncryptsOneBlock
  have hi : Instr.encBlock = .encBlock ∨ Instr.encBlock = .decBlock := .inl rfl
  refine ⟨onlyWordOf_of_decode (by decide) (by decide) (by decide), fun s => ⟨fun hk hl => ?_,
    failsWith_blockCommand hi s⟩⟩
  rw [exec_of_blockEffect (w := 0x00000002) (by decide) (checkPreconditions_blockCommand_none hi hk hl) rfl,
    finish_blockEffect_storeWord]

/-- Settles O29: the command's word is its OPCODE alone, its checks are a block command's, and its block function is
the InvCipher, with nothing unpadded after it. -/
theorem decBlockDecryptsOneBlock : Obligations.DecBlockDecryptsOneBlock := by
  unfold Obligations.DecBlockDecryptsOneBlock
  have hi : Instr.decBlock = .encBlock ∨ Instr.decBlock = .decBlock := .inr rfl
  refine ⟨onlyWordOf_of_decode (by decide) (by decide) (by decide), fun s => ⟨fun hk hl => ?_,
    failsWith_blockCommand hi s⟩⟩
  rw [exec_of_blockEffect (w := 0x00000003) (by decide) (checkPreconditions_blockCommand_none hi hk hl) rfl,
    finish_blockEffect_storeWord]

end Sys2Proof.Machine
end

section
/-! SUPPORT. The settled statements of 45_padding.md: the guarded unpad (R212), PAD (R214) and UNPAD (R215). What the
guard does in its two cases, and what a completion right after the write of OUT leaves, come first. -/

namespace Sys2Proof.Machine

/-! ## The guarded unpad (R211, R212) -/

/-- A count from 1 to below the length is stripped. -/
theorem unpadGuard_of_strips {d : Bytes} (h : 1 ≤ unpadCount d ∧ unpadCount d < d.length) :
    unpadGuard d = (d.take (d.length - unpadCount d), false) := if_pos h

/-- Any other count falls back on the whole input. -/
theorem unpadGuard_of_not_strips {d : Bytes} (h : ¬ (1 ≤ unpadCount d ∧ unpadCount d < d.length)) :
    unpadGuard d = (d, true) := if_neg h

theorem unpadRaw_of_strips {d : Bytes} (h : 1 ≤ unpadCount d ∧ unpadCount d < d.length) :
    unpadRaw d = d.take (d.length - unpadCount d) := if_pos h

theorem unpadRaw_of_not_strips {d : Bytes} (h : ¬ (1 ≤ unpadCount d ∧ unpadCount d < d.length)) :
    unpadRaw d = [] := if_neg h

/-- What is left of a stripped sequence is not empty, since the count is below its length. -/
theorem take_unpadCount_ne_nil {d : Bytes} (h : unpadCount d < d.length) :
    d.take (d.length - unpadCount d) ≠ [] := by
  rw [← List.length_pos_iff, List.length_take]
  omega

/-- The raw unpad is empty exactly where the count cannot be stripped. -/
theorem unpadRaw_eq_nil_iff (d : Bytes) :
    unpadRaw d = [] ↔ ¬ (1 ≤ unpadCount d ∧ unpadCount d < d.length) := by
  refine ⟨fun hraw h => ?_, unpadRaw_of_not_strips⟩
  rw [unpadRaw_of_strips h] at hraw
  exact take_unpadCount_ne_nil h.2 hraw

theorem unpadGuard_prefix (d : Bytes) : (unpadGuard d).1 <+: d := by
  by_cases h : 1 ≤ unpadCount d ∧ unpadCount d < d.length
  · rw [unpadGuard_of_strips h]
    exact List.take_prefix ..
  · rw [unpadGuard_of_not_strips h]

/-- The guard keeps a result from being empty (R212). -/
theorem unpadGuard_ne_nil {d : Bytes} (hd : d ≠ []) : (unpadGuard d).1 ≠ [] := by
  by_cases h : 1 ≤ unpadCount d ∧ unpadCount d < d.length
  · rw [unpadGuard_of_strips h]
    exact take_unpadCount_ne_nil h.2
  · rw [unpadGuard_of_not_strips h]
    exact hd

/-- Settles O55: the guard and the raw unpad split on the same test of the count, and the raw unpad is empty exactly
where the test fails. -/
theorem unpadGuardFallsBackOnAnEmptyResult : Obligations.UnpadGuardFallsBackOnAnEmptyResult := by
  unfold Obligations.UnpadGuardFallsBackOnAnEmptyResult
  intro d hd
  rw [show (d.getLastD 0).toNat = unpadCount d from rfl]
  refine ⟨unpadGuard_of_strips, fun hcount => unpadGuard_of_not_strips (by omega), fun hraw => ?_, fun hraw => ?_,
    unpadGuard_ne_nil hd, unpadGuard_prefix d⟩
  · exact unpadGuard_of_not_strips ((unpadRaw_eq_nil_iff d).1 hraw)
  · have hstrips := not_not.1 (mt (unpadRaw_eq_nil_iff d).2 hraw)
    rw [unpadGuard_of_strips hstrips, unpadRaw_of_strips hstrips]

/-! ## A completion right after the write of OUT (R214, R215) -/

/-- Such a completion changes OUT and OUT_LEN, and CMD and STATUS as every completion does. -/
theorem finish_writeOutput_storeWord (v : Bytes) (n : Nat) (w : Word) (s : State) :
    finish (writeOutput v n (storeWord w s)) =
      { s with cmd := w, status := doneStatus s s.status.keyValid false, mem := memSetBytes s.mem 0x20000 v,
               outLen := BitVec.ofNat 32 n, ctl := Controller.idle } := rfl

/-- PAD_FALLBACK written after OUT is the completed command's. -/
theorem finish_setPadFallback_writeOutput_storeWord (f : Bool) (v : Bytes) (n : Nat) (w : Word) (s : State) :
    finish (setPadFallback f (writeOutput v n (storeWord w s))) =
      { s with cmd := w, status := doneStatus s s.status.keyValid f, mem := memSetBytes s.mem 0x20000 v,
               outLen := BitVec.ofNat 32 n, ctl := Controller.idle } := rfl

/-! ## PAD (R214) -/

/-- PAD reads IN, uses no key and takes any message, so its one check is code 6's (R251). -/
theorem checkPreconditions_pad (s : State) :
    checkPreconditions .pad s = if bufBytes s < s.inLen.toNat then some .bufferRange else none := by
  simp [checkPreconditions, Instr.wellFormed, readsIn, usesKey, shapeError]

/-- PAD, its check passed, writes its padded input, which the store left as it was. -/
theorem exec_pad {s : State} (hc : checkPreconditions .pad s = none) :
    exec .pad s =
      .next (finish (writeOutput (padBytes (inBytes s)) (padBytes (inBytes s)).length
        (storeWord 0x00000008 s))) :=
  exec_of_ok hc

/-- Settles O30: the command's word is its OPCODE alone, IN_LEN decides its one check, and its effect writes OUT and
OUT_LEN only. -/
theorem padAppendsThePadding : Obligations.PadAppendsThePadding := by
  unfold Obligations.PadAppendsThePadding
  refine ⟨onlyWordOf_of_decode (by decide) (by decide) (by decide), fun s => ⟨fun hb => ?_, fun hb => ?_⟩⟩
  · have hc : checkPreconditions .pad s = none := by
      rw [checkPreconditions_pad, if_neg (Nat.not_lt.2 hb)]
    rw [exec_pad hc, finish_writeOutput_storeWord, inBytes]
  · exact failsWith_of_error (by rw [checkPreconditions_pad, if_pos hb])

/-! ## UNPAD (R215) -/

/-- UNPAD reads IN, uses no key and takes any message but the empty one, so its checks are those of codes 6 and 7 in
that order (R251). -/
theorem checkPreconditions_unpad (s : State) :
    checkPreconditions .unpad s =
      if bufBytes s < s.inLen.toNat then some .bufferRange
      else if s.inLen.toNat = 0 then some .emptyInput
      else none := by
  simp [checkPreconditions, Instr.wellFormed, readsIn, usesKey, shapeError]

/-- UNPAD, its checks passed, copies all of its input, which the store left as it was; the guard gives OUT_LEN and
PAD_FALLBACK. -/
theorem exec_unpad {s : State} (hc : checkPreconditions .unpad s = none) :
    exec .unpad s =
      .next (finish (setPadFallback (unpadGuard (inBytes s)).2
        (writeOutput (inBytes s) (unpadGuard (inBytes s)).1.length (storeWord 0x00000009 s)))) :=
  exec_of_ok hc

/-- Settles O31: the command's word is its OPCODE alone, IN_LEN decides its two checks, of which an empty input fails
the second only, and its effect writes OUT, OUT_LEN and PAD_FALLBACK. -/
theorem unpadStripsWithTheGuard : Obligations.UnpadStripsWithTheGuard := by
  unfold Obligations.UnpadStripsWithTheGuard
  refine ⟨onlyWordOf_of_decode (by decide) (by decide) (by decide), fun s => ⟨fun hb hne => ?_, fun hb => ?_,
    fun h0 => ?_⟩⟩
  · have hc : checkPreconditions .unpad s = none := by
      rw [checkPreconditions_unpad, if_neg (Nat.not_lt.2 hb), if_neg hne]
    rw [exec_unpad hc, finish_setPadFallback_writeOutput_storeWord, inBytes]
  · exact failsWith_of_error (by rw [checkPreconditions_unpad, if_pos hb])
  · have hb : ¬ bufBytes s < s.inLen.toNat := by rw [h0]; exact Nat.not_lt_zero _
    exact failsWith_of_error (by rw [checkPreconditions_unpad, if_neg hb, if_pos h0])

end Sys2Proof.Machine
end

section
/-! SUPPORT. The settled statements of 46_modes.md: CBC's chaining (R233, R235) and the four mode commands (R231,
R232, R234, R236). The chaining is proved of block lists and then read off as bytes; the four commands share their first
two checks, which come before the commands. -/

namespace Sys2Proof.Machine

/-! ## The chaining on block lists (R233, R235)

Block j of `iv :: bs` is the block chained into block j: IV for the first, block j - 1 of `bs` after it. -/

theorem cbcEncBlocks_get (rk : Bytes) (iv : Block) (ps : List Block) (j : Nat)
    (h : j < (cbcEncBlocks rk iv ps).1.length) :
    (cbcEncBlocks rk iv ps).1[j] =
      cipher (xorBlock (ps[j]'(by simpa using h)) ((iv :: (cbcEncBlocks rk iv ps).1)[j]'(Nat.lt_succ_of_lt h))) rk := by
  induction ps generalizing iv j with
  | nil => exact absurd h (Nat.not_lt_zero j)
  | cons p ps ih =>
    cases j with
    | zero => rfl
    | succ j =>
      simp only [cbcEncBlocks, List.getElem_cons_succ]
      exact ih _ j (Nat.lt_of_succ_lt_succ h)

theorem cbcDecBlocks_get (rk : Bytes) (iv : Block) (cs : List Block) (j : Nat)
    (h : j < (cbcDecBlocks rk iv cs).1.length) :
    (cbcDecBlocks rk iv cs).1[j] =
      xorBlock (invCipher (cs[j]'(by simpa using h)) rk)
        ((iv :: cs)[j]'(Nat.lt_succ_of_lt (by simpa using h))) := by
  induction cs generalizing iv j with
  | nil => exact absurd h (Nat.not_lt_zero j)
  | cons c cs ih =>
    cases j with
    | zero => rfl
    | succ j => exact ih c j (Nat.lt_of_succ_lt_succ h)

/-- Encryption's `previous` ends as the last ciphertext block, or IV where there is none. -/
theorem cbcEncBlocks_previous (rk : Bytes) (iv : Block) (ps : List Block) :
    (cbcEncBlocks rk iv ps).2 = (cbcEncBlocks rk iv ps).1.getLastD iv := by
  induction ps generalizing iv with
  | nil => rfl
  | cons p ps ih => rw [cbcEncBlocks, List.getLastD_cons, ih]

/-- Decryption's `previous` ends as the last block of its input, or IV where there is none. -/
theorem cbcDecBlocks_previous (rk : Bytes) (iv : Block) (cs : List Block) :
    (cbcDecBlocks rk iv cs).2 = cs.getLastD iv := by
  induction cs generalizing iv with
  | nil => rfl
  | cons c cs ih => rw [cbcDecBlocks, List.getLastD_cons, ih]

/-! ## The chaining on bytes (R233, R235) -/

/-- The block chained into block j, as a slice. -/
theorem cons_blocks_get (d : Bytes) (iv : Block) (j : Nat) (h : j < (iv :: blocks d).length) :
    (iv :: blocks d)[j] = if j = 0 then iv else blockOfBytes (slice d (16 * (j - 1)) 16) := by
  cases j with
  | zero => rfl
  | succ j => exact blocks_get d j (Nat.lt_of_succ_lt_succ h)

/-- The last block of a block-aligned sequence, as a slice. -/
theorem blocks_getLastD {d : Bytes} (iv : Block) (hd : d.length % 16 = 0) :
    (blocks d).getLastD iv = if d = [] then iv else lastBlock d := by
  by_cases hnil : d = []
  · rw [if_pos hnil, hnil]
    rfl
  · have hpos : 0 < d.length := List.length_pos_iff.2 hnil
    have hlast : d.length / 16 - 1 < (blocks d).length := by rw [blocks_length]; omega
    have hoffset : 16 * (d.length / 16 - 1) = d.length - 16 := by omega
    rw [if_neg hnil, List.getLastD_eq_getLast?, List.getLast?_eq_getElem?, blocks_length,
      List.getElem?_eq_getElem hlast, Option.getD_some, blocks_get, hoffset, lastBlock]

theorem blocks_cbcEncBytes (d rk : Bytes) (iv : Block) :
    blocks (cbcEncBytes d rk iv).1 = (cbcEncBlocks rk iv (blocks d)).1 := blocks_joinBlocks _

theorem blocks_cbcDecBytes (c rk : Bytes) (iv : Block) :
    blocks (cbcDecBytes c rk iv).1 = (cbcDecBlocks rk iv (blocks c)).1 := blocks_joinBlocks _

/-- Each block of a CBC encryption is the Cipher of its plaintext block XOR the ciphertext block before it. -/
theorem slice_cbcEncBytes (d rk : Bytes) (iv : Block) (j : Nat) (h : j < d.length / 16) :
    slice (cbcEncBytes d rk iv).1 (16 * j) 16 =
      blockBytes (cipher (xorBlock (blockOfBytes (slice d (16 * j) 16))
        (if j = 0 then iv else blockOfBytes (slice (cbcEncBytes d rk iv).1 (16 * (j - 1)) 16))) rk) := by
  have hj : j < (cbcEncBlocks rk iv (blocks d)).1.length := by simpa using h
  have hchained := cons_blocks_get (cbcEncBytes d rk iv).1 iv j (by simp; omega)
  simp only [blocks_cbcEncBytes] at hchained
  rw [← hchained, ← blocks_get d j (by simpa using h), ← cbcEncBlocks_get rk iv (blocks d) j hj]
  exact slice_joinBlocks _ j hj

/-- Each block of a CBC decryption is the InvCipher of its ciphertext block XOR the ciphertext block before it. -/
theorem slice_cbcDecBytes (c rk : Bytes) (iv : Block) (j : Nat) (h : j < c.length / 16) :
    slice (cbcDecBytes c rk iv).1 (16 * j) 16 =
      blockBytes (xorBlock (invCipher (blockOfBytes (slice c (16 * j) 16)) rk)
        (if j = 0 then iv else blockOfBytes (slice c (16 * (j - 1)) 16))) := by
  have hj : j < (cbcDecBlocks rk iv (blocks c)).1.length := by simpa using h
  rw [← cons_blocks_get c iv j (by simp; omega), ← blocks_get c j (by simpa using h),
    ← cbcDecBlocks_get rk iv (blocks c) j hj]
  exact slice_joinBlocks _ j hj

theorem cbcEncBytes_previous {d : Bytes} (rk : Bytes) (iv : Block) (hd : d.length % 16 = 0) :
    (cbcEncBytes d rk iv).2 = if d = [] then iv else lastBlock (cbcEncBytes d rk iv).1 := by
  have hlen : (cbcEncBytes d rk iv).1.length = d.length := by rw [cbcEncBytes_length]; omega
  have hnil : (cbcEncBytes d rk iv).1 = [] ↔ d = [] := by
    rw [← List.length_eq_zero_iff, hlen, List.length_eq_zero_iff]
  calc (cbcEncBytes d rk iv).2
      = (blocks (cbcEncBytes d rk iv).1).getLastD iv := by
        rw [blocks_cbcEncBytes, ← cbcEncBlocks_previous]; rfl
    _ = if d = [] then iv else lastBlock (cbcEncBytes d rk iv).1 := by
        rw [blocks_getLastD iv (by rw [hlen, hd])]; simp only [hnil]

theorem cbcDecBytes_previous {c : Bytes} (rk : Bytes) (iv : Block) (hc : c.length % 16 = 0) :
    (cbcDecBytes c rk iv).2 = if c = [] then iv else lastBlock c :=
  (cbcDecBlocks_previous rk iv (blocks c)).trans (blocks_getLastD iv hc)

/-- Settles O57: the chaining of the block lists, read off block by block, and the last block for `previous`. -/
theorem cbcEncryptionChains : Obligations.CbcEncryptionChains := by
  unfold Obligations.CbcEncryptionChains
  intro d rk c iv previous hd h
  obtain rfl : (cbcEncBytes d rk iv).1 = c := congrArg Prod.fst h
  obtain rfl : (cbcEncBytes d rk iv).2 = previous := congrArg Prod.snd h
  refine ⟨?_, fun j hj => slice_cbcEncBytes d rk iv j (by omega), cbcEncBytes_previous rk iv hd⟩
  rw [cbcEncBytes_length]
  omega

/-- Settles O58: the chaining of the block lists, read off block by block, and the input's last block for `previous`;
`last` is InvCipher of that block by its definition. -/
theorem cbcDecryptionChains : Obligations.CbcDecryptionChains := by
  unfold Obligations.CbcDecryptionChains
  intro c rk p iv previous hc h
  obtain rfl : (cbcDecBytes c rk iv).1 = p := congrArg Prod.fst h
  obtain rfl : (cbcDecBytes c rk iv).2 = previous := congrArg Prod.snd h
  refine ⟨?_, fun j hj => slice_cbcDecBytes c rk iv j (by omega), cbcDecBytes_previous rk iv hc, fun _ => rfl⟩
  rw [cbcDecBytes_length]
  omega

/-! ## Preparing a message (R230) -/

theorem prepare_of_aligned {m : Bytes} (h : m.length % 16 = 0) : prepare m = m := if_neg (not_not.2 h)

theorem preparesAsStated : PreparesAsStated := fun _ => ⟨prepare_of_aligned, fun h => if_pos h⟩

/-! ## The checks of a mode command (R251) -/

/-- A command that reads IN and uses the key makes the checks of codes 6 and 1, in that order, and then that of its
message's shape. -/
theorem checkPreconditions_of_readsIn_usesKey {i : Instr}
    (hi : i.wellFormed = true ∧ readsIn i = true ∧ usesKey i = true) (s : State) :
    checkPreconditions i s =
      if bufBytes s < s.inLen.toNat then some .bufferRange
      else if s.keyLen ≠ 16 then some .invalidKeyLength
      else shapeError i s := by
  obtain ⟨hwf, hreads, hkey⟩ := hi
  simp [checkPreconditions, hwf, hreads, hkey]

theorem checkPreconditions_eq_shapeError {i : Instr}
    (hi : i.wellFormed = true ∧ readsIn i = true ∧ usesKey i = true) {s : State}
    (hb : s.inLen.toNat ≤ bufBytes s) (hk : s.keyLen = 16) : checkPreconditions i s = shapeError i s := by
  rw [checkPreconditions_of_readsIn_usesKey hi, if_neg (Nat.not_lt.2 hb), if_neg (not_not.2 hk)]

/-- The two failures that every mode command has. -/
theorem failsWith_of_readsIn_usesKey {i : Instr}
    (hi : i.wellFormed = true ∧ readsIn i = true ∧ usesKey i = true) (s : State) :
    (bufBytes s < s.inLen.toNat → FailsWith i s .bufferRange) ∧
    (s.inLen.toNat ≤ bufBytes s → s.keyLen ≠ 16 → FailsWith i s .invalidKeyLength) := by
  refine ⟨fun hb => ?_, fun hb hk => ?_⟩ <;>
    refine failsWith_of_error ((checkPreconditions_of_readsIn_usesKey hi s).trans ?_)
  · rw [if_pos hb]
  · rw [if_neg (Nat.not_lt.2 hb), if_pos hk]

/-- An encryption takes a message of any shape. -/
theorem checkPreconditions_encryption {i : Instr} (hi : i = .ecbEnc ∨ i = .cbcEnc) {s : State}
    (hb : s.inLen.toNat ≤ bufBytes s) (hk : s.keyLen = 16) : checkPreconditions i s = none := by
  obtain rfl | rfl := hi <;> exact checkPreconditions_eq_shapeError (by decide) hb hk

/-- A decryption takes whole blocks, at least one. -/
theorem checkPreconditions_decryption {i : Instr} (hi : i = .ecbDec ∨ i = .cbcDec) {s : State}
    (hb : s.inLen.toNat ≤ bufBytes s) (hk : s.keyLen = 16) :
    checkPreconditions i s =
      if s.inLen.toNat % 16 ≠ 0 ∨ s.inLen.toNat = 0 then some .invalidCiphertextLength else none := by
  obtain rfl | rfl := hi <;> exact checkPreconditions_eq_shapeError (by decide) hb hk

theorem checkPreconditions_decryption_none {i : Instr} (hi : i = .ecbDec ∨ i = .cbcDec) {s : State}
    (hb : s.inLen.toNat ≤ bufBytes s) (hk : s.keyLen = 16) (hal : s.inLen.toNat % 16 = 0)
    (hne : s.inLen.toNat ≠ 0) : checkPreconditions i s = none := by
  rw [checkPreconditions_decryption hi hb hk, if_neg (by omega)]

/-- A decryption's failures are codes 6, 1 and 3, in that order. -/
theorem failsWith_decryption {i : Instr} (hi : i = .ecbDec ∨ i = .cbcDec) (s : State) :
    (bufBytes s < s.inLen.toNat → FailsWith i s .bufferRange) ∧
    (s.inLen.toNat ≤ bufBytes s → s.keyLen ≠ 16 → FailsWith i s .invalidKeyLength) ∧
    (s.inLen.toNat ≤ bufBytes s → s.keyLen = 16 → s.inLen.toNat % 16 ≠ 0 ∨ s.inLen.toNat = 0 →
      FailsWith i s .invalidCiphertextLength) := by
  have hmode : i.wellFormed = true ∧ readsIn i = true ∧ usesKey i = true := by
    obtain rfl | rfl := hi <;> decide
  obtain ⟨hrange, hkey⟩ := failsWith_of_readsIn_usesKey hmode s
  refine ⟨hrange, hkey, fun hb hk hshape => failsWith_of_error ?_⟩
  rw [checkPreconditions_decryption hi hb hk, if_pos hshape]

/-! ## An encryption of the empty message (R231, R234) -/

theorem inBytes_of_inLen_zero {s : State} (h : s.inLen = 0) : inBytes s = [] := by
  rw [← List.length_eq_zero_iff, inBytes_length, h]
  rfl

theorem inLen_le_bufBytes_of_zero {s : State} (h : s.inLen = 0) : s.inLen.toNat ≤ bufBytes s := by
  rw [h]
  exact Nat.zero_le _

theorem memSetBytes_nil (m : Memory) (a : Nat) : memSetBytes m a [] = m := rfl

/-- With no block, ECB_ENC does what EXPAND_KEY does and clears OUT_LEN. -/
theorem ecbEncEffect_of_empty {s : State} (h : inBytes s = []) :
    ecbEncEffect s = { expandKeyEffect s with outLen := 0 } := by
  rw [ecbEncEffect_eq s (c := []) (by rw [h]; rfl), expandKeyEffect_eq, memSetBytes_nil]
  simp

/-- With no block, CBC_ENC does so too, and CHAIN takes IV. -/
theorem cbcEncEffect_of_empty {s : State} (h : inBytes s = []) :
    cbcEncEffect s = { expandKeyEffect s with outLen := 0, chain := s.iv } := by
  rw [cbcEncEffect_eq s (c := []) (previous := s.iv) (by rw [h]; rfl), expandKeyEffect_eq, memSetBytes_nil]
  simp

/-- RK lies below OUT, so a schedule's write keeps every byte of OUT. -/
theorem byteAt_expandKeyEffect (s : State) {a : Nat} (ha : 0x20000 ≤ a) :
    byteAt (expandKeyEffect s) a = byteAt s a := by
  have hbelow : 0x00100 + (keyExpansion s.key).length ≤ a := by rw [keyExpansion_length]; omega
  simp only [byteAt, expandKeyEffect_eq]
  rw [memGet_memSetBytes_outside _ _ _ (.inr hbelow)]

/-! ## ECB_ENC and ECB_DEC (R231, R232) -/

/-- Settles O32: the command's word is its OPCODE alone, its checks are an encryption's, and its effect is one record
update; on an empty message that update writes no byte of OUT. -/
theorem ecbEncEncryptsTheMessage : Obligations.EcbEncEncryptsTheMessage := by
  unfold Obligations.EcbEncEncryptsTheMessage
  refine ⟨onlyWordOf_of_decode (by decide) (by decide) (by decide), preparesAsStated,
    fun d rk hd => ⟨?_, fun j hj => slice_ecbEncBytes d rk j (by omega)⟩, fun s hl hk => ?_,
    fun s => ⟨fun hb hk c hc => ?_, failsWith_of_readsIn_usesKey (by decide) s⟩⟩
  · rw [ecbEncBytes_length]
    omega
  · have hc := checkPreconditions_encryption (.inl rfl) (inLen_le_bufBytes_of_zero hl) hk
    have hin : inBytes (storeWord (encode .ecbEnc) s) = [] := inBytes_of_inLen_zero hl
    refine ⟨_, exec_of_ok hc, ?_⟩
    rw [commandEffect, ecbEncEffect_of_empty hin]
    refine ⟨rfl, rfl, fun a ha => ?_⟩
    exact (byteAt_congr (by simp) (by simp) a).trans (byteAt_expandKeyEffect (storeWord (encode .ecbEnc) s) ha)
  · have hchecks := checkPreconditions_encryption (.inl rfl) hb hk
    rw [exec_of_ok hchecks, commandEffect, ecbEncEffect_eq (storeWord (encode .ecbEnc) s) hc]
    rfl

/-- Settles O33: the command's word is its OPCODE alone, its checks are a decryption's, and its effect is one record
update. -/
theorem ecbDecDecryptsAndUnpads : Obligations.EcbDecDecryptsAndUnpads := by
  unfold Obligations.EcbDecDecryptsAndUnpads
  refine ⟨onlyWordOf_of_decode (by decide) (by decide) (by decide),
    fun c rk hc => ⟨?_, fun j hj => slice_ecbDecBytes c rk j (by omega)⟩,
    fun s => ⟨fun hb hk hal hne p hp => ?_, failsWith_decryption (.inl rfl) s⟩⟩
  · rw [ecbDecBytes_length]
    omega
  · have hchecks := checkPreconditions_decryption_none (.inl rfl) hb hk hal hne
    rw [exec_of_ok hchecks, commandEffect, ecbDecEffect_eq (storeWord (encode .ecbDec) s) hp]
    rfl

/-! ## CBC_ENC and CBC_DEC (R234, R236) -/

/-- Settles O34: the command's word is its OPCODE alone, its checks are an encryption's, and its effect is one record
update; on an empty message that update writes no byte of OUT and leaves IV in CHAIN. -/
theorem cbcEncEncryptsTheMessage : Obligations.CbcEncEncryptsTheMessage := by
  unfold Obligations.CbcEncEncryptsTheMessage
  refine ⟨onlyWordOf_of_decode (by decide) (by decide) (by decide), preparesAsStated, fun s hl hk => ?_,
    fun s => ⟨fun hb hk c previous hc => ?_, failsWith_of_readsIn_usesKey (by decide) s⟩⟩
  · have hc := checkPreconditions_encryption (.inr rfl) (inLen_le_bufBytes_of_zero hl) hk
    have hin : inBytes (storeWord (encode .cbcEnc) s) = [] := inBytes_of_inLen_zero hl
    refine ⟨_, exec_of_ok hc, ?_⟩
    rw [commandEffect, cbcEncEffect_of_empty hin]
    refine ⟨rfl, rfl, rfl, fun a ha => ?_⟩
    exact (byteAt_congr (by simp) (by simp) a).trans (byteAt_expandKeyEffect (storeWord (encode .cbcEnc) s) ha)
  · have hchecks := checkPreconditions_encryption (.inr rfl) hb hk
    rw [exec_of_ok hchecks, commandEffect, cbcEncEffect_eq (storeWord (encode .cbcEnc) s) hc.symm]
    rfl

/-- A slice of what was read is a read of the slice. -/
theorem slice_memRead (s : State) (sp : Space) {off len a n : Nat} (h : a + n ≤ len) :
    slice (memRead s sp off len) a n = memRead s sp (off + a) n := by
  apply List.ext_getElem
  · rw [slice_length, memRead_length, memRead_length]
    omega
  · intro j _ _
    simp [slice, memRead, Nat.add_assoc]

/-- The last block of the input, read from IN. -/
theorem lastBlock_inBytes {s : State} (h : 16 ≤ s.inLen.toNat) :
    lastBlock (inBytes s) = blockOfBytes (memRead s .inBuf (s.inLen.toNat - 16) 16) := by
  rw [lastBlock, inBytes_length, inBytes, slice_memRead s .inBuf (by omega), Nat.zero_add]

/-- Settles O35: the command's word is its OPCODE alone, its checks are a decryption's, and its effect is one record
update, whose CHAIN and STATE come from the last block of the input. -/
theorem cbcDecDecryptsAndUnpads : Obligations.CbcDecDecryptsAndUnpads := by
  unfold Obligations.CbcDecDecryptsAndUnpads
  refine ⟨onlyWordOf_of_decode (by decide) (by decide) (by decide),
    fun s => ⟨fun hb hk hal hne p previous hp => ?_, failsWith_decryption (.inr rfl) s⟩⟩
  rw [← lastBlock_inBytes (by omega)]
  refine ⟨?_, ?_⟩
  · have hin : inBytes s ≠ [] := by rwa [← List.length_pos_iff, inBytes_length, Nat.pos_iff_ne_zero]
    calc previous
        = (cbcDecBytes (inBytes s) (keyExpansion s.key) s.iv).2 := congrArg Prod.snd hp
      _ = lastBlock (inBytes s) := by
        rw [cbcDecBytes_previous _ _ (by rw [inBytes_length, hal]), if_neg hin]
  · have hchecks := checkPreconditions_decryption_none (.inr rfl) hb hk hal hne
    rw [exec_of_ok hchecks, commandEffect, cbcDecEffect_eq (storeWord (encode .cbcDec) s) hp.symm]
    rfl

end Sys2Proof.Machine
end

section
/-! SUPPORT. The settled statements of 60_exceptions.md: the order of the checks (R251), the error completion (R252) and
the interrupt output (R262). The word of a command decodes back first (30_encoding.md R95), since a store reaches the
checks through the decoder. -/

namespace Sys2Proof

/-- The word of a command is legal and is that command's; ROUND 0..10 is what a well-formed ADD_ROUND_KEY allows. -/
theorem decode_encode {i : Instr} (h : i.wellFormed = true) : decode (encode i) = .command i := by
  cases i with
  | addRoundKey round => revert round; decide
  | _ => decide

end Sys2Proof

namespace Sys2Proof.Machine

/-! ## The checks (R251) -/

/-- R251's list of the commands that read IN. -/
theorem readsIn_iff_mem (i : Instr) :
    readsIn i = true ↔ i ∈ [.encBlock, .decBlock, .ecbEnc, .ecbDec, .cbcEnc, .cbcDec, .pad, .unpad] := by
  cases i <;> simp [readsIn]

/-- R251's list of the commands that use the key. -/
theorem usesKey_iff_mem (i : Instr) :
    usesKey i = true ↔ i ∈ [.expandKey, .encBlock, .decBlock, .ecbEnc, .ecbDec, .cbcEnc, .cbcDec] := by
  cases i <;> simp [usesKey]

/-- The checks of steps 4 and 5 apply to disjoint sets of commands, so as one chain they answer what each command's
own check answers. -/
theorem shapeError_eq_chain (i : Instr) (s : State) :
    shapeError i s =
      if i ∈ [.encBlock, .decBlock] ∧ s.inLen.toNat ≠ 16 then some .invalidBlockLength
      else if i ∈ [.ecbDec, .cbcDec] ∧ (s.inLen.toNat % 16 ≠ 0 ∨ s.inLen.toNat = 0) then
        some .invalidCiphertextLength
      else if i = .unpad ∧ s.inLen.toNat = 0 then some .emptyInput
      else if (∃ r, i = .addRoundKey r) ∧ s.status.keyValid = false then some .noRoundKeys
      else none := by
  cases i <;> simp [shapeError]

theorem checkPreconditions_of_wellFormed {i : Instr} (h : i.wellFormed = true) (s : State) :
    checkPreconditions i s =
      if readsIn i = true ∧ bufBytes s < s.inLen.toNat then some .bufferRange
      else if usesKey i = true ∧ s.keyLen ≠ 16 then some .invalidKeyLength
      else shapeError i s := by
  simp [checkPreconditions, h]

/-- Settles O18: a well-formed command makes the checks of codes 6 and 1 and that of its shape, each only where those
before it pass. -/
theorem preconditionsAreCheckedInOrder : Obligations.PreconditionsAreCheckedInOrder := by
  unfold Obligations.PreconditionsAreCheckedInOrder
  refine ⟨fun w why s hd => storeCommand_illegal s hd, fun i s => ⟨fun hwf => if_pos hwf, fun hwf => ?_⟩⟩
  rw [checkPreconditions_of_wellFormed hwf, ← readsIn_iff_mem, ← usesKey_iff_mem]
  refine ⟨fun hrange => if_pos hrange, fun hrange => ⟨fun hkey => ?_, fun hkey => ?_⟩⟩
  · rw [if_neg hrange, if_pos hkey]
  · rw [if_neg hrange, if_neg hkey, shapeError_eq_chain]

/-! ## The interrupt output (R262) -/

theorem irq_of_done {s : State} (h : s.status.done = true) : s.irq = s.irqEn := by
  simp [State.irq, h]

theorem irq_of_not_done {s : State} (h : s.status.done = false) : s.irq = false := by
  simp [State.irq, h]

theorem irq_of_disabled {s : State} (h : s.irqEn = false) : s.irq = false := by
  simp [State.irq, h]

/-! ## The error completion of a store (R252) -/

/-- The store of a command whose check fails, while the core is idle. -/
theorem busWrite_cmd_error {s : State} {w : Word} {i : Instr} {e : ErrCode} (hs : Ready s)
    (hd : decode w = .command i) (hc : checkPreconditions i s = some e) :
    busWrite 0x0000C w s =
      { s with cmd := w, status := failedStatus s e, ctl := Controller.idle,
               reply := some (.write .ok) } := by
  obtain ⟨hb, hr⟩ := hs
  rw [busWrite_cmd w hr hb, storeCommand_error hd hc, raiseError_storeWord]

/-- Settles O19: exec and the store of the command's word end in the same error completion, which sets DONE and
leaves an idle controller as it was. -/
theorem failedCommandsChangeCmdAndStatusOnly : Obligations.FailedCommandsChangeCmdAndStatusOnly := by
  unfold Obligations.FailedCommandsChangeCmdAndStatusOnly
  refine fun i s e hc => ⟨failsWith_of_error hc, fun hwf hs hidle => ?_⟩
  have hstore := busWrite_cmd_error hs (decode_encode hwf) hc
  refine ⟨?_, ?_⟩
  · rw [hstore, ← hidle]
  · rw [hstore]
    exact irq_of_done rfl

/-! ## What clears and what raises irq (R262) -/

/-- A write of 1 to bit 1 of STATUS clears DONE (10_state.md R25). -/
theorem busWrite_status_done {s : State} {w : Word} (hs : Ready s) (hw : w.getLsbD 1 = true) :
    (busWrite 0x00010 w s).status.done = false := by
  obtain ⟨hb, hr⟩ := hs
  have hstatus : (busWrite 0x00010 w s).status = s.status.w1c w := by
    rw [busWrite_idle w hr rfl hb]
    rfl
  rw [hstatus, status_w1c_eq]
  exact if_pos hw

/-- A write to CTRL replaces IRQ_EN and nothing else (10_state.md R23). -/
theorem busWrite_ctrl {s : State} (w : Word) (hs : Ready s) :
    busWrite 0x00008 w s = { s with irqEn := w.getLsbD 0, reply := some (.write .ok) } := by
  obtain ⟨hb, hr⟩ := hs
  rw [busWrite_idle w hr rfl hb]
  rfl

/-- A command sets DONE whichever way it ends. -/
theorem exec_done {i : Instr} {s t : State} (h : exec i s = .next t) : t.status.done = true := by
  obtain ⟨e, -, rfl⟩ | ⟨-, rfl⟩ := exec_cases h <;> rfl

/-- No command writes CTRL. -/
theorem exec_irqEn {i : Instr} {s t : State} (h : exec i s = .next t) : t.irqEn = s.irqEn := by
  obtain ⟨e, -, rfl⟩ | ⟨-, rfl⟩ := exec_cases h
  · rfl
  · obtain ⟨-, hirq, -⟩ := commandEffect_frame i (storeWord (encode i) s)
    rw [finish_irqEn, hirq, storeWord_irqEn]

/-- Settles O41: the W1C write and an accepted store clear DONE, a write of IRQ_EN = 0 masks it, and every completion
sets it without a write to CTRL. -/
theorem irqIsEnableAndDone : Obligations.IrqIsEnableAndDone := by
  unfold Obligations.IrqIsEnableAndDone
  refine ⟨fun s => rfl, fun s w hs => ⟨fun hw => ?_, fun hw => ?_, fun i hd hc => ?_⟩, fun i s t h => ?_⟩
  · exact irq_of_not_done (busWrite_status_done hs hw)
  · rw [busWrite_ctrl w hs]
    exact ⟨irq_of_disabled hw, rfl⟩
  · have hstatus := busWrite_cmd_accepted_status hs hd hc
    exact irq_of_not_done (by rw [hstatus]; rfl)
  · rw [irq_of_done (exec_done h), exec_irqEn h]

end Sys2Proof.Machine
end

section
/-! SUPPORT. The settled statements of 30_encoding.md: the decoder and the encoder undo each other (R91 to R95), and the
words of the opcode map (R94, R96). -/

namespace Sys2Proof

/-! ## A word is its three fields (R91) -/

theorem commandWord_toNat (op : BitVec 8) (round : BitVec 4) :
    (commandWord op round).toNat = round.toNat * 256 + op.toNat := by
  have hround : round.toNat <<< 8 < 2 ^ 32 := by rw [Nat.shiftLeft_eq]; omega
  have hop : op.toNat < 2 ^ 8 := op.isLt
  simp only [commandWord, BitVec.truncate_eq_setWidth, BitVec.toNat_or, BitVec.toNat_shiftLeft, BitVec.toNat_setWidth]
  rw [Nat.mod_eq_of_lt (by omega : round.toNat < 2 ^ 32), Nat.mod_eq_of_lt hround,
    Nat.mod_eq_of_lt (by omega : op.toNat < 2 ^ 32), ← Nat.shiftLeft_add_eq_or_of_lt hop, Nat.shiftLeft_eq]

/-- A word whose RSVD is 0 has no bit but those of OPCODE and ROUND. -/
theorem commandWord_fields {w : Word} (h : reservedField w = 0) :
    commandWord (opcodeField w) (roundField w) = w := by
  have hres : w.toNat / 4096 = 0 := by rw [← reservedField_toNat, h]; rfl
  apply BitVec.eq_of_toNat_eq
  rw [commandWord_toNat, opcodeField_toNat, roundField_toNat]
  omega

/-! ## The decoder inverted (R95) -/

/-- A row of R94 other than ADD_ROUND_KEY's encodes to its OPCODE with ROUND 0. -/
theorem encode_of_plainCommand {op : BitVec 8} {i : Instr} (h : plainCommand op = some i) :
    encode i = commandWord op 0 ∧ i.wellFormed = true := by
  unfold plainCommand at h
  split at h <;> cases h <;> exact ⟨rfl, rfl⟩

/-- The two ways a word decodes to a command. -/
theorem decode_command_cases {w : Word} {i : Instr} (h : decode w = .command i) :
    reservedField w = 0 ∧
      ((opcodeField w = 0x17#8 ∧ (roundField w).toNat ≤ 10 ∧ i = .addRoundKey (roundField w)) ∨
        (plainCommand (opcodeField w) = some i ∧ roundField w = 0)) := by
  unfold decode at h
  split at h
  · cases h
  · rename_i hres
    refine ⟨not_not.1 hres, ?_⟩
    split at h
    · rename_i hop
      split at h
      · rename_i hround
        cases h
        exact .inl ⟨hop, hround, rfl⟩
      · cases h
    · split at h
      · rename_i j hj
        split at h
        · rename_i hround
          cases h
          exact .inr ⟨hj, hround⟩
        · cases h
      · cases h

/-- A word that decodes is its command's encoding, and the command is one of the hardware. -/
theorem encode_of_decode {w : Word} {i : Instr} (h : decode w = .command i) :
    encode i = w ∧ i.wellFormed = true := by
  obtain ⟨hres, ⟨hop, hround, rfl⟩ | ⟨hplain, hround⟩⟩ := decode_command_cases h
  · refine ⟨?_, decide_eq_true hround⟩
    rw [encode, ← hop, commandWord_fields hres]
  · obtain ⟨henc, hwf⟩ := encode_of_plainCommand hplain
    refine ⟨?_, hwf⟩
    rw [henc, ← hround, commandWord_fields hres]

end Sys2Proof

namespace Sys2Proof.Machine

/-- Settles O2: a word that decodes has RSVD 0, so it is its OPCODE and its ROUND, which the command keeps. -/
theorem decodedWordsEncodeBack : Obligations.DecodedWordsEncodeBack := by
  unfold Obligations.DecodedWordsEncodeBack
  exact fun w i h => encode_of_decode h

/-- Settles O1: the word of a well-formed command decodes to it, row by row of R94. -/
theorem encodedCommandsDecodeBack : Obligations.EncodedCommandsDecodeBack := by
  unfold Obligations.EncodedCommandsDecodeBack
  exact fun i h => decode_encode h

/-- Settles O4: each word is a literal, which the decoder evaluates. -/
theorem tableWordsDecode : Obligations.TableWordsDecode := by
  unfold Obligations.TableWordsDecode
  decide

end Sys2Proof.Machine
end

section
/-! SUPPORT. The settled statements of 00_scope.md and of the register map in 10_state.md and 20_memory.md: RAM reads
after writes (R17), the reset values (R47), reads and writes while idle (R21 to R42, R67), and the reset event of
70_reset_and_hazards.md (R280). -/

namespace Sys2Proof.Machine

/-! ## RAM (R17) -/

/-- Reading the bytes just written gives them back. -/
theorem memRead_memWrite (s : State) (sp : Space) (off : Nat) (v : Bytes) :
    memRead (memWrite sp off v s) sp off v.length = v := by
  apply List.ext_getElem
  · rw [memRead_length]
  · intro j _ hj
    simp only [memRead, List.getElem_map, List.getElem_range]
    exact byteAt_memWrite_inside s sp off v hj

/-- Settles O38: a byte inside the written ones reads as written, one outside as before, and each byte's write keeps
the offsets rising. -/
theorem memWriteReadsBack : Obligations.MemWriteReadsBack := by
  unfold Obligations.MemWriteReadsBack
  exact fun s sp off v => ⟨memRead_memWrite s sp off v, fun _ ha => byteAt_memWrite_outside s sp off v ha,
    fun hwf => memSetBytes_wf _ _ _ hwf⟩

/-! ## The reset values (R47) -/

theorem readReg_idle {s : State} (hb : s.status.busy = false) (r : Reg) : readReg s r = regValue s r :=
  readReg_exact (unspecifiedBits_idle hb r)

theorem readReg_resetWith (n : Fin 4095) (r : Reg) :
    readReg (State.resetWith n) r = regValue (State.resetWith n) r :=
  readReg_idle rfl r

/-- The words of a zero block are zero. -/
theorem blockWord_zero (k : Fin 4) : blockWord (Vector.replicate 16 0) k = 0 := by
  simp [blockWord, packWord]

/-- Settles O5: after reset no command runs, so every read is exact and answers the field's reset value or the ROM's
entry. -/
theorem resetLeavesTheResetValues : Obligations.ResetLeavesTheResetValues := by
  unfold Obligations.ResetLeavesTheResetValues
  intro n
  simp only [readReg_resetWith]
  refine ⟨rfl, rfl, rfl, rfl, resetWith_status_value n, rfl, rfl, rfl,
    (by decide : GfReg.toWord { a := 0, b := 0, p := 0 } = 0),
    fun k => ⟨blockWord_zero k, blockWord_zero k, blockWord_zero k, blockWord_zero k⟩, fun a => rfl,
    fun k j => ⟨wordByte_tableWord sBox k.val j, wordByte_tableWord invSBox k.val j⟩, fun k => rfl, rfl, rfl⟩

/-! ## The offsets of the map -/

theorem offset_toNat {a : Nat} (h : a < 2 ^ 18) : (BitVec.ofNat 18 a : Offset).toNat = a := by
  simpa using Nat.mod_eq_of_lt h

/-! ## Reads while idle (R67) -/

/-- A read while idle answers the register's value and changes nothing but the reply. -/
theorem busRead_idle {s : State} {off : Offset} (hs : Ready s) (ha : off.toNat % 4 = 0) :
    busRead off s = { s with reply := some (.read (regValue s (regAt off.toNat)) .ok) } := by
  obtain ⟨hb, hr⟩ := hs
  exact busRead_exact hr ha (unspecifiedBits_idle hb _)

/-- The reply holds nothing a read looks at. -/
theorem regValue_setReply (s : State) (b : Option BusReply) (r : Reg) :
    regValue { s with reply := b } r = regValue s r := by
  cases r <;> rfl

/-- A read at the offset of a register answers that register's value. -/
theorem readsAs_of_regAt {s : State} {a : Nat} {r : Reg} (hs : Ready s) (ha : a % 4 = 0) (hlt : a < 2 ^ 18)
    (hreg : regAt a = r) : ReadsAs s (BitVec.ofNat 18 a) (regValue s r) := by
  have hn := offset_toNat hlt
  rw [ReadsAs, busRead_idle hs (by rw [hn]; exact ha), hn, hreg]

theorem regValue_ctrl (s : State) : regValue s .ctrl = if s.irqEn then 1 else 0 := by
  cases h : s.irqEn <;> simp [regValue, flagBit, h]

/-- A word of the IN window is IN's below BUF_BYTES and reads 0 elsewhere (R39). -/
theorem regValue_inWindow_eq (s : State) (k : Nat) :
    regValue s (.inWindow k) = if 4 * k < bufBytes s then regValue s (.inWindow k) else 0 := by
  simp only [regValue]
  split <;> rfl

/-- A word of the OUT window is OUT's below BUF_BYTES + 16 and reads 0 elsewhere (R40). -/
theorem regValue_outWindow_eq (s : State) (k : Nat) :
    regValue s (.outWindow k) = if 4 * k < bufBytes s + 16 then regValue s (.outWindow k) else 0 := by
  simp only [regValue]
  split <;> rfl

/-- Settles O6: while idle no bit is unspecified, so a read answers the value of the register its offset selects, and
the reply it leaves is no operand of the next read. -/
theorem idleReadsHaveNoSideEffect : Obligations.IdleReadsHaveNoSideEffect := by
  unfold Obligations.IdleReadsHaveNoSideEffect
  refine ⟨fun s off hs ha => ⟨busRead_idle hs ha, ?_⟩, fun s hs => ?_⟩
  · have hs' : Ready { s with reply := some (.read (regValue s (regAt off.toNat)) .ok) } := hs
    have hvalue := regValue_setReply s (some (.read (regValue s (regAt off.toNat)) .ok)) (regAt off.toNat)
    rw [busRead_idle hs ha, busRead_idle hs' ha, hvalue]
  · have hread {a : Nat} {r : Reg} := readsAs_of_regAt (a := a) (r := r) hs
    refine ⟨hread rfl (by decide) rfl, hread rfl (by decide) rfl, ?_, hread rfl (by decide) rfl,
      hread rfl (by decide) rfl, hread rfl (by decide) rfl, hread rfl (by decide) rfl,
      hread rfl (by decide) rfl, hread rfl (by decide) rfl, fun k => ⟨?_, ?_, ?_, ?_⟩, fun k => ?_,
      fun k hk => ⟨?_, ?_⟩⟩
    · rw [← regValue_ctrl]
      exact hread rfl (by decide) rfl
    · exact hread (by omega) (by omega) (regAt_key k)
    · exact hread (by omega) (by omega) (regAt_iv k)
    · exact hread (by omega) (by omega) (regAt_state k)
    · exact hread (by omega) (by omega) (regAt_chain k)
    · exact hread (by omega) (by omega) (regAt_rk k)
    · rw [← regValue_inWindow_eq]
      exact hread (by omega) (by omega) (regAt_inWindow hk)
    · rw [← regValue_outWindow_eq]
      exact hread (by omega) (by omega) (regAt_outWindow hk)

/-! ## Writes while idle (R21 to R42) -/

/-- A write at the offset of a register is that register's write. -/
theorem busWrite_of_regAt {s : State} {a : Nat} {r : Reg} (d : Word) (hs : Ready s) (ha : a % 4 = 0)
    (hlt : a < 2 ^ 18) (hreg : regAt a = r) :
    busWrite (BitVec.ofNat 18 a) d s = { writeReg r d s with reply := some (.write .ok) } := by
  obtain ⟨hb, hr⟩ := hs
  have hn := offset_toNat hlt
  rw [busWrite_idle d hr (by rw [hn]; exact ha) hb, hn, hreg]

/-- Settles O10: each offset selects its register, whose write is one record update. -/
theorem hostWritesChangeTheirRegisterOnly : Obligations.HostWritesChangeTheirRegisterOnly := by
  unfold Obligations.HostWritesChangeTheirRegisterOnly
  intro s d hs
  have hwrite {a : Nat} {r : Reg} := busWrite_of_regAt (a := a) (r := r) d hs
  refine ⟨busWrite_ctrl d hs, hwrite rfl (by decide) rfl, hwrite rfl (by decide) rfl,
    hwrite rfl (by decide) rfl, fun k => ⟨?_, ?_, ?_⟩⟩
  · exact hwrite (by omega) (by omega) (regAt_key k)
  · exact hwrite (by omega) (by omega) (regAt_iv k)
  · exact hwrite (by omega) (by omega) (regAt_state k)

/-! ## The IN window (R39) -/

theorem wordBytes_getElem (w : Word) (j : Fin 4) : (wordBytes w)[j.val]'j.isLt = wordByte w j.val := by
  match j with
  | 0 | 1 | 2 | 3 => rfl

/-- A write of an IN word below BUF_BYTES is a write of its four bytes to IN. -/
theorem busWrite_inWindow {s : State} {k : Nat} (d : Word) (hs : Ready s) (hk : k < 0x4000)
    (hbuf : 4 * k < bufBytes s) :
    busWrite (BitVec.ofNat 18 (0x10000 + 4 * k)) d s =
      { memWrite .inBuf (4 * k) (wordBytes d) s with reply := some (.write .ok) } := by
  rw [busWrite_of_regAt d hs (by omega) (by omega) (regAt_inWindow hk), writeReg, if_pos hbuf]

/-- A write of an IN word at or above BUF_BYTES is ignored. -/
theorem busWrite_beyond_in {s : State} {k : Nat} (d : Word) (hs : Ready s) (hk : k < 0x4000)
    (hbuf : bufBytes s ≤ 4 * k) :
    busWrite (BitVec.ofNat 18 (0x10000 + 4 * k)) d s = { s with reply := some (.write .ok) } := by
  rw [busWrite_of_regAt d hs (by omega) (by omega) (regAt_inWindow hk), writeReg, if_neg (Nat.not_lt.2 hbuf)]

/-- Settles O11: below BUF_BYTES the write is a RAM write of four bytes; above it the register takes no write and its
value is 0. -/
theorem inWindowWritesStoreFourBytes : Obligations.InWindowWritesStoreFourBytes := by
  unfold Obligations.InWindowWritesStoreFourBytes
  refine fun s d k hs hk => ⟨fun hbuf => ?_, fun hbuf => ⟨busWrite_beyond_in d hs hk hbuf, ?_⟩⟩
  · rw [busWrite_inWindow d hs hk hbuf]
    refine ⟨⟨_, rfl⟩, fun j => ?_, fun a ha => ?_⟩
    · rw [← Nat.add_assoc]
      calc byteAt (memWrite .inBuf (4 * k) (wordBytes d) s) (0x10000 + 4 * k + j.val)
          = (wordBytes d)[j.val]'j.isLt := byteAt_memWrite_inside s .inBuf (4 * k) (wordBytes d) j.isLt
        _ = d.extractLsb' (8 * j.val) 8 := wordBytes_getElem d j
    · exact byteAt_memWrite_outside s .inBuf (4 * k) (wordBytes d) ha
  · rw [regValue_inWindow_eq, if_neg (Nat.not_lt.2 hbuf)]

/-! ## Offsets that ignore a write (R37, R40, R41; I20) -/

/-- An aligned offset of the OUT window selects one of its words. -/
theorem regAt_outWindow_of_mem {a : Nat} (ha : a % 4 = 0) (h1 : 0x20000 ≤ a) (h2 : a < 0x30000) :
    regAt a = .outWindow ((a - 0x20000) / 4) := by
  rw [← regAt_outWindow (k := (a - 0x20000) / 4) (by omega)]
  congr 1
  omega

theorem regAt_chain_of_mem {a : Nat} (ha : a % 4 = 0) (h1 : 0x00060 ≤ a) (h2 : a < 0x00070) :
    ∃ k, regAt a = .chain k := by
  refine ⟨⟨(a - 0x00060) / 4, by omega⟩, ?_⟩
  rw [← regAt_chain]
  congr 1
  simp only
  omega

theorem regAt_rk_of_mem {a : Nat} (ha : a % 4 = 0) (h1 : 0x00100 ≤ a) (h2 : a < 0x001B0) :
    ∃ k, regAt a = .rk k := by
  refine ⟨⟨(a - 0x00100) / 4, by omega⟩, ?_⟩
  rw [← regAt_rk]
  congr 1
  simp only
  omega

theorem regAt_id_or_param {a : Nat} (ha : a % 4 = 0) (h : a < 0x00008) : regAt a = .id ∨ regAt a = .param := by
  obtain rfl | rfl : a = 0 ∨ a = 4 := by omega
  · exact .inl rfl
  · exact .inr rfl

/-- No register at a read-only offset takes a write. -/
theorem writeReg_readOnly {a : Nat} (d : Word) (s : State) (ha : a % 4 = 0)
    (h : a < 0x00008 ∨ a = 0x0001C ∨ (0x00060 ≤ a ∧ a < 0x00070) ∨ (0x00100 ≤ a ∧ a < 0x001B0) ∨
      (0x00400 ≤ a ∧ a < 0x00640) ∨ (0x20000 ≤ a ∧ a < 0x30000)) :
    writeReg (regAt a) d s = s := by
  obtain h | rfl | ⟨h1, h2⟩ | ⟨h1, h2⟩ | ⟨h1, h2⟩ | ⟨h1, h2⟩ := h
  · obtain hreg | hreg := regAt_id_or_param ha h <;> rw [hreg] <;> rfl
  · rfl
  · obtain ⟨k, hreg⟩ := regAt_chain_of_mem ha h1 h2
    rw [hreg]; rfl
  · obtain ⟨k, hreg⟩ := regAt_rk_of_mem ha h1 h2
    rw [hreg]; rfl
  · obtain ⟨k, hreg⟩ | ⟨k, hreg⟩ | ⟨k, hreg⟩ := regAt_rom ha h1 h2 <;> rw [hreg] <;> rfl
  · rw [regAt_outWindow_of_mem ha h1 h2]; rfl

/-- Settles O12: a word beyond OUT has the value 0 and no unspecified bit, BUSY or not, and no read-only register takes
a write. -/
theorem readOnlyOffsetsIgnoreWrites : Obligations.ReadOnlyOffsetsIgnoreWrites := by
  unfold Obligations.ReadOnlyOffsetsIgnoreWrites
  refine ⟨fun s off hr ha hbeyond hlt => ?_, fun s off d hs ha hoff => ?_⟩
  · have hreg := regAt_outWindow_of_mem ha (by omega) hlt
    have hout : ¬ 4 * ((off.toNat - 0x20000) / 4) < bufBytes s + 16 := by omega
    have hmask : drawMask s (regAt off.toNat) = 0 := by rw [hreg]; exact if_neg hout
    rw [busRead_exact hr ha (unspecifiedBits_of_drawMask_zero hmask), hreg, regValue_outWindow_eq, if_neg hout]
  · obtain ⟨hb, hr⟩ := hs
    exact busWrite_ignored hr ha hb (writeReg_readOnly d s ha hoff)

/-! ## The reset event (70_reset_and_hazards.md R280) -/

theorem clockStep_inReset {run : Instr → State → Host.Outcome State Fault Refusal} {s : State}
    (hr : s.inReset = true) : clockStep run s = .next s := by
  simp [clockStep, hr]

/-- Settles O42: the event is one record update of the reset state; during reset the bus and the clock have their
reset cases only. -/
theorem resetEventAbandonsEverything : Obligations.ResetEventAbandonsEverything := by
  unfold Obligations.ResetEventAbandonsEverything
  refine ⟨fun s rest hin => ?_, fun s off d hr => ⟨?_, ?_⟩, fun s hr hin => ?_, fun s rest hin => ?_⟩
  · exact ⟨_, step_of_input hin, rfl, rfl, rfl, fun a => rfl⟩
  · exact ⟨_, busRead_reset off hr⟩
  · exact ⟨_, busWrite_reset off d hr⟩
  · rw [step_of_no_input hin, clockStep_inReset hr]
  · rw [step_of_input hin]
    rfl

end Sys2Proof.Machine
end

section
/-! SUPPORT. The settled statements of 40_command_control.md and 20_memory.md section 5: every step has a next state
(R115), the event a step serves (R70), the store of a command word (R110, R112), and what no command writes (R118). -/

namespace Sys2Proof.Machine

/-! ## Every step has a next state (R115) -/

theorem exec_total (i : Instr) (s : State) : ∃ t, exec i s = .next t := by
  cases hc : checkPreconditions i s with
  | none => exact ⟨_, exec_of_ok hc⟩
  | some e => exact ⟨_, exec_of_error hc⟩

theorem clockStep_total (s : State) : ∃ t, clockStep exec s = .next t := by
  unfold clockStep
  split
  · exact ⟨_, rfl⟩
  · cases decode s.ctl.word with
    | command i =>
      cases s.ctl.phase with
      | complete => exact exec_total i s
      | idle | accept | keyexp | load | init | round | final | store | unpad => exact ⟨_, rfl⟩
    | illegal why => cases s.ctl.phase <;> exact ⟨_, rfl⟩

theorem serveEvent_total (e : BusEvent) (s : State) : ∃ t, serveEvent exec e s = .next t := by
  cases e with
  | clock => exact clockStep_total s
  | read off | write off d | assertReset | releaseReset => exact ⟨_, rfl⟩

/-- Settles O20: a command ends in its error or its completion, and a step in the service of an event or in a clock,
which ends in one of the two or in a phase step. -/
theorem nothingFaultsOrIsRefused : Obligations.NothingFaultsOrIsRefused := by
  unfold Obligations.NothingFaultsOrIsRefused
  refine ⟨exec_total, fun s => ?_⟩
  rw [Safe]
  cases hin : s.inputs with
  | nil => rw [step_of_no_input hin]; exact clockStep_total s
  | cons e rest => rw [step_of_input hin]; exact serveEvent_total e _

/-! ## The event a step serves (R70) -/

theorem clockStep_idle {run : Instr → State → Host.Outcome State Fault Refusal} {s : State}
    (h : s.ctl.phase = .idle) : clockStep run s = .next s := by
  unfold clockStep
  rw [h]
  split <;> rfl

/-- Settles O21: with no event left the step is the clock, and a pending clock is served as one; at COMPLETE it is
exec. -/
theorem stepRunsTheCapturedCommand : Obligations.StepRunsTheCapturedCommand := by
  unfold Obligations.StepRunsTheCapturedCommand
  refine fun s i rest hr hp hd => ⟨fun hin => ?_, fun hin => ?_⟩
  · rw [step_of_no_input hin, clockStep_complete hr hp hd]
  · rw [step_of_input hin]
    exact clockStep_complete (s := { s with inputs := rest }) hr hp hd

/-- Settles O22: the oldest event is served, and with none left the clock has its case at IDLE or that of a phase
step. -/
theorem stepServesTheOldestEvent : Obligations.StepServesTheOldestEvent := by
  unfold Obligations.StepServesTheOldestEvent
  refine ⟨fun s off d rest => ⟨step_of_input, step_of_input⟩, fun s hin hp => ?_,
    fun s i hin hr hidle hcomplete hd => ?_⟩
  · rw [step_of_no_input hin, clockStep_idle hp]
  · rw [step_of_no_input hin, clockStep_advance hr hidle hcomplete hd]

/-! ## The store of a command word (R110, R112) -/

/-- The controller at ACCEPT, which the store transition leaves at once (R112). -/
def atAccept (i : Instr) (s : State) : Controller :=
  { Controller.idle with phase := .accept, word := s.cmd, prev := firstPrevious i s }

theorem acceptCommand_ctl (i : Instr) (s : State) :
    (acceptCommand i s).ctl = leaveAccept i s (atAccept i s) := rfl

/-- An accepted store changes CMD and STATUS, and leaves the controller executing the stored word, past ACCEPT. -/
theorem acceptCommand_storeWord (i : Instr) (w : Word) (s : State) :
    ∃ c : Controller, c.word = w ∧ c.phase ≠ .idle ∧ c.phase ≠ .accept ∧
      acceptCommand i (storeWord w s) = { s with cmd := w, status := acceptedStatus s, ctl := c } := by
  obtain ⟨hword, hidle, haccept, -⟩ := leaveAccept_frame i (storeWord w s) (c := atAccept i (storeWord w s))
    (Nat.zero_le _)
  exact ⟨_, hword, hidle, haccept, rfl⟩

/-- Settles O17: the four cases of a store are those of the bus while BUSY, of the decoder and of the checks. -/
theorem storingACommandWord : Obligations.StoringACommandWord := by
  unfold Obligations.StoringACommandWord
  refine fun s w hr => ⟨fun hb => ⟨fun why hd => ?_, fun i e hd hc => ?_, fun i hd hc => ?_⟩, fun hb => ?_⟩
  · exact busWrite_cmd_illegal ⟨hb, hr⟩ hd
  · exact busWrite_cmd_error ⟨hb, hr⟩ hd hc
  · obtain ⟨c, hword, hidle, haccept, hstore⟩ := acceptCommand_storeWord i w s
    refine ⟨c, hword, hidle, haccept, ?_⟩
    rw [busWrite_cmd w hr hb, storeCommand_ok hd hc, hstore]
  · exact busWrite_busy w hr rfl hb

/-! ## The registers no command writes (R118) -/

/-- GF.P, CHAIN, OUT_LEN and STATE are each left alone by the effects of all but the commands that write them. -/
theorem commandEffect_result_frame (i : Instr) (s : State) :
    (i ≠ .gfMul → (commandEffect i s).gf.p = s.gf.p) ∧
    (i ≠ .cbcEnc → i ≠ .cbcDec → (commandEffect i s).chain = s.chain) ∧
    (readsIn i = false → (commandEffect i s).outLen = s.outLen) ∧
    (i ∈ [.nop, .expandKey, .pad, .unpad, .gfMul] → (commandEffect i s).cipherState = s.cipherState) := by
  cases i <;>
    simp [commandEffect, expandKeyEffect_eq, blockEffect_eq, ecbEncEffect_eq _ rfl, ecbDecEffect_eq _ rfl,
      cbcEncEffect_eq _ rfl, cbcDecEffect_eq _ rfl, padEffect_eq, unpadEffect_eq, gfMulEffect, stateEffect,
      addRoundKeyEffect, readsIn]

/-- Settles O36: an error completion writes CMD and STATUS only, and a completion adds the effect's own writes to
them. -/
theorem registersNoCommandWrites : Obligations.RegistersNoCommandWrites := by
  unfold Obligations.RegistersNoCommandWrites
  intro i s t h
  obtain ⟨e, -, rfl⟩ | ⟨-, rfl⟩ := exec_cases h
  · simp
  · obtain ⟨hbuf, hirq, hcmd, hkeyLen, hinLen, ha, hb, hkey, hiv, -, hreset, hinputs, hreply, hepoch, hdraws⟩ :=
      commandEffect_frame i (storeWord (encode i) s)
    obtain ⟨hp, hchain, houtLen, hstate⟩ := commandEffect_result_frame i (storeWord (encode i) s)
    obtain ⟨f, hstatus, hfallback⟩ := commandEffect_status i (storeWord (encode i) s)
    refine ⟨hkey, hkeyLen, hiv, hinLen, hirq, ha, hb, hbuf, ?_, hreset, hinputs, hreply, hepoch, hdraws, hcmd, hp,
      hchain, houtLen, hstate, fun hk => ?_, fun hu => ?_⟩
    · simp [hstatus]
    · simp [hstatus, hk]
    · simp [hstatus, hfallback hu]

/-! ## The bytes a command leaves (R118) -/

/-- Only a command that reads IN writes OUT. -/
theorem outputBytes_of_not_readsIn {i : Instr} (s : State) (h : readsIn i = false) : outputBytes i s = [] := by
  cases i <;> simp [readsIn, outputBytes] at h ⊢

/-- An effect keeps every byte outside the schedule it writes to RK and the output it writes to OUT. -/
theorem byteAt_commandEffect (i : Instr) (s : State) {a : Nat}
    (hrk : usesKey i = true → a < 0x00100 ∨ 0x00100 + 176 ≤ a)
    (hout : readsIn i = true → a < 0x20000 ∨ 0x20000 + (outputBytes i s).length ≤ a) :
    byteAt (commandEffect i s) a = byteAt s a := by
  obtain ⟨-, -, -, -, -, -, -, -, -, -, -, -, -, hepoch, -⟩ := commandEffect_frame i s
  have houtside : memGet (memSetBytes s.mem 0x00100 (if usesKey i = true then keyExpansion s.key else [])) a =
      memGet s.mem a := by
    cases hk : usesKey i with
    | false => rfl
    | true => exact memGet_memSetBytes_outside _ _ _ (by rw [if_pos rfl, keyExpansion_length]; exact hrk hk)
  rw [byteAt, byteAt, hepoch, commandEffect_mem]
  cases hr : readsIn i with
  | false => rw [outputBytes_of_not_readsIn s hr, memSetBytes_nil, houtside]
  | true => rw [memGet_memSetBytes_outside _ _ _ (hout hr), houtside]

/-- Settles O37: an error completion writes no memory, and an effect writes the schedule and the output only. -/
theorem memoryBytesCommandsLeaveUnchanged : Obligations.MemoryBytesCommandsLeaveUnchanged := by
  unfold Obligations.MemoryBytesCommandsLeaveUnchanged
  intro i s t h
  obtain ⟨e, hc, rfl⟩ | ⟨hc, rfl⟩ := exec_cases h
  · exact ⟨fun _ a => byteAt_congr rfl rfl a, fun hnone => by rw [hc] at hnone; cases hnone⟩
  · refine ⟨fun hne => absurd hc hne, fun _ a hrk hout => ?_⟩
    rw [outBytesWritten, ← outputBytes_length hc] at hout
    calc byteAt (finish (commandEffect i (storeWord (encode i) s))) a
        = byteAt (commandEffect i (storeWord (encode i) s)) a := byteAt_congr rfl rfl a
      _ = byteAt (storeWord (encode i) s) a := byteAt_commandEffect i _ hrk hout
      _ = byteAt s a := byteAt_congr rfl rfl a

end Sys2Proof.Machine
end

section
/-! SUPPORT. The settled statements about the invariant of the machine: reset meets it, every step keeps it (10_state.md
R28, R40, R44, R46, R48; 40_command_control.md R111), and what it gives: an accepted command never fails (60_exceptions.md
R253) and STATUS shows BUSY or DONE (20_memory.md R72). -/

namespace Sys2Proof.Machine

/-! ## The reset state (10_state.md R47) -/

/-- A state with the RAMs unwritten, STATUS and OUT_LEN cleared and the controller idle meets the invariant. -/
theorem consistent_of_reset {s : State} (hm : s.mem = []) (hst : s.status = Status.reset)
    (hc : s.ctl = Controller.idle) (ho : s.outLen = 0) : Consistent s := by
  have hb : s.status.busy = false := by rw [hst]; rfl
  refine ⟨⟨by rw [hm]; rfl, by simp [hm]⟩, fun hv => ?_, ?_, controllerOk_idle hb hc, ?_, fun _ => hb⟩
  · rw [hst] at hv; cases hv
  · rw [StatusOk, hst]
    simp [Status.reset]
  · rw [OutLenOk, ho]
    exact Nat.zero_le _

/-- Settles O43: reset clears every field that the invariant constrains. -/
theorem invariantHoldsAfterReset : Obligations.InvariantHoldsAfterReset := by
  unfold Obligations.InvariantHoldsAfterReset
  exact fun n => consistent_of_reset rfl rfl rfl rfl

/-! ## Transactions -/

/-- The invariant looks at none of the reply, the draw counter and the pending events. -/
theorem Consistent.setTrace {s : State} (h : Consistent s) (b : Option BusReply) (n : Nat) (l : List BusEvent) :
    Consistent { s with reply := b, draws := n, inputs := l } := h

/-- A write while no command runs leaves the controller idle, so the invariant is kept where the memory, the round
keys and STATUS stay consistent. -/
theorem Consistent.of_idle {s t : State} (h : Consistent s) (hb : s.status.busy = false)
    (hb' : t.status.busy = false) (hctl : t.ctl = s.ctl) (hout : t.outLen = s.outLen)
    (hbuf : t.bufBlocks = s.bufBlocks) (hmem : MemoryOk t) (hrk : RoundKeysOk t) (hst : StatusOk t) :
    Consistent t := by
  obtain ⟨-, -, -, ⟨-, -, hidle, -⟩, ho, -⟩ := h
  exact ⟨hmem, hrk, hst, controllerOk_idle hb' (hctl.trans (hidle hb)), ho.congr hout hbuf, fun _ => hb'⟩

/-- A cleared KEY_VALID makes no claim about RK. -/
theorem roundKeysOk_of_invalid {s : State} (h : s.status.keyValid = false) : RoundKeysOk s := fun hv => by
  rw [h] at hv; cases hv

/-- A write of one to ERR's bit clears ERR_CODE with it (R28). -/
theorem statusOk_w1c {s : State} (h : StatusOk s) (hb : s.status.busy = false) (d : Word) :
    StatusOk { s with status := s.status.w1c d } := by
  obtain ⟨herr, -⟩ := h
  refine ⟨?_, fun hb' => ?_⟩
  · simp only [status_w1c_err, status_w1c_errCode]
    cases d.getLsbD 2 with
    | true => simp
    | false => simpa using herr
  · rw [show (s.status.w1c d).busy = false from hb] at hb'; cases hb'

/-- A write of an IN word lists four bytes of IN and leaves RK as it is. -/
theorem memRead_rk_memWrite_inBuf (s : State) (off : Nat) (v : Bytes) :
    memRead (memWrite .inBuf off v s) .rk 0 176 = memRead s .rk 0 176 := by
  apply List.map_congr_left
  intro j hj
  rw [List.mem_range] at hj
  refine byteAt_memWrite_outside s .inBuf off v (.inl ?_)
  simp only [Space.base]
  omega

theorem memoryOk_inWrite {s : State} (h : MemoryOk s) {k : Nat} (hk : 4 * k < bufBytes s) (d : Word) :
    MemoryOk (memWrite .inBuf (4 * k) (wordBytes d) s) := by
  have hbuf : bufBytes s % 16 = 0 := by unfold bufBytes; omega
  refine memSetBytes_ok (s := s) h fun j h1 h2 => .inr (.inl ?_)
  simp only [Space.base, wordBytes, List.length_cons, List.length_nil] at h1 h2
  omega

/-- An error completion leaves the controller idle, and ERR with a code. -/
theorem consistent_raiseError {s : State} (h : Consistent s) {e : ErrCode} (he : e ≠ .none) (w : Word) :
    Consistent (raiseError e (storeWord w s)) := by
  obtain ⟨hmem, hrk, -, -, hout, -⟩ := h
  refine ⟨hmem, hrk, ⟨?_, fun hb => by cases hb⟩, controllerOk_idle rfl rfl, hout, fun _ => rfl⟩
  simp [he]

/-- An accepted store starts the controller on the stored word, whose checks pass. -/
theorem consistent_acceptCommand {s : State} (h : Consistent s) (hr : s.inReset = false) {w : Word}
    {i : Instr} (hd : decode w = .command i) (hc : checkPreconditions i s = none) :
    Consistent (acceptCommand i (storeWord w s)) := by
  obtain ⟨hmem, hrk, -, -, hout, -⟩ := h
  obtain ⟨hword, hidle, haccept, hrnd⟩ := leaveAccept_frame i (storeWord w s) (c := atAccept i (storeWord w s))
    (Nat.zero_le _)
  refine ⟨hmem, hrk, by simp [StatusOk], ⟨hrnd, haccept, fun hb => ?_, fun _ => ⟨hidle, hword, i, hd, hc⟩⟩,
    hout, fun hr' => ?_⟩
  · rw [acceptCommand_status] at hb
    cases hb
  rw [show (acceptCommand i (storeWord w s)).inReset = false from hr] at hr'
  cases hr'

theorem consistent_storeCommand {s : State} (h : Consistent s) (hr : s.inReset = false) (w : Word) :
    Consistent (storeCommand w s) := by
  obtain ⟨e, he, hstore⟩ | ⟨i, hd, hc, hstore⟩ := storeCommand_cases w s
  · rw [hstore]; exact consistent_raiseError h he w
  · rw [hstore]; exact consistent_acceptCommand h hr hd hc

/-- Every write while idle keeps the invariant. -/
theorem consistent_writeReg {s : State} (h : Consistent s) (hs : Ready s) (r : Reg) (d : Word) :
    Consistent (writeReg r d s) := by
  obtain ⟨hb, hr⟩ := hs
  obtain ⟨hmem, hrk, hst, -, -, -⟩ := id h
  cases r with
  | cmd => exact consistent_storeCommand h hr d
  | status => exact h.of_idle hb hb rfl rfl rfl hmem hrk (statusOk_w1c hst hb d)
  | keyLen => exact h.of_idle hb hb rfl rfl rfl hmem (roundKeysOk_of_invalid rfl) hst
  | key k => exact h.of_idle hb hb rfl rfl rfl hmem (roundKeysOk_of_invalid rfl) hst
  | inWindow k =>
    simp only [writeReg]
    split
    · rename_i hk
      refine h.of_idle hb hb rfl rfl rfl (memoryOk_inWrite hmem hk d) (fun hv => ?_) hst
      rw [memRead_rk_memWrite_inBuf]
      exact hrk hv
    · exact h
  | ctrl | inLen | gf | iv k | state k =>
    rw [writeReg]
    exact h.of_idle hb hb rfl rfl rfl (hmem.congr rfl rfl) (hrk.congr rfl rfl rfl rfl rfl) hst
  | id | param | outLen | chain k | rk k | sbox k | invSbox k | rcon k | outWindow k | reserved =>
    rw [writeReg]
    exact h

theorem consistent_busRead {s : State} (h : Consistent s) (off : Offset) : Consistent (busRead off s) := by
  unfold busRead
  repeat' split
  all_goals exact h

theorem consistent_busWrite {s : State} (h : Consistent s) (off : Offset) (d : Word) :
    Consistent (busWrite off d s) := by
  cases hr : s.inReset with
  | true => rw [busWrite_reset off d hr]; exact h
  | false =>
    by_cases ha : off.toNat % 4 = 0
    · cases hb : s.status.busy with
      | true => rw [busWrite_busy d hr ha hb]; exact h
      | false => rw [busWrite_idle d hr ha hb]; exact consistent_writeReg h ⟨hb, hr⟩ _ d
    · rw [busWrite_misaligned d hr ha]; exact h

/-! ## Completions -/

/-- After a command that uses the key, RK holds the schedule of KEY: OUT lies above RK (R46). -/
theorem memRead_rk_commandEffect {i : Instr} (hk : usesKey i = true) (s : State) :
    memRead (commandEffect i s) .rk 0 176 = keyExpansion s.key := by
  apply List.ext_getElem
  · rw [memRead_length, keyExpansion_length]
  · intro j _ hj
    have hj' := hj
    rw [keyExpansion_length] at hj'
    simp only [memRead, List.getElem_map, List.getElem_range, Space.base, byteAt, commandEffect_mem, if_pos hk]
    rw [memGet_memSetBytes_outside _ _ _ (.inl (by omega)), Nat.add_zero, memGet_memSetBytes_inside _ _ _ hj]
    rfl

/-- A command that does not use the key leaves RK as it is. -/
theorem memRead_rk_commandEffect_of_not_usesKey {i : Instr} (hk : usesKey i = false) (s : State) :
    memRead (commandEffect i s) .rk 0 176 = memRead s .rk 0 176 := by
  apply List.map_congr_left
  intro j hj
  rw [List.mem_range] at hj
  refine byteAt_commandEffect i s (fun hk' => ?_) (fun _ => .inl ?_)
  · rw [hk] at hk'; cases hk'
  · simp only [Space.base]; omega

/-- A successful command lists the bytes of RK and of OUT only. -/
theorem memoryOk_commandEffect {i : Instr} {s : State} (h : MemoryOk s) (hc : checkPreconditions i s = none) :
    MemoryOk (commandEffect i s) := by
  obtain ⟨hbuf, -⟩ := commandEffect_frame i s
  have hlen : (outputBytes i s).length ≤ bufBytes s + 16 := (outputBytes_length hc).trans_le (blockInput_length_le hc)
  have hrk : (if usesKey i = true then keyExpansion s.key else []).length ≤ 176 := by split <;> simp
  have hrk_ok := memSetBytes_ok h (v := if usesKey i = true then keyExpansion s.key else []) (a := 0x00100)
    fun j h1 h2 => .inl ⟨h1, by omega⟩
  have hok := memSetBytes_ok hrk_ok (v := outputBytes i s) (a := 0x20000) fun j h1 h2 => .inr (.inr ⟨h1, by omega⟩)
  rw [← commandEffect_mem] at hok
  exact ⟨hok.1, fun c hcell => (ramOffset_congr hbuf c.1).2 (hok.2 c hcell)⟩

/-- OUT_LEN counts the output, or what the guarded unpad keeps of it. -/
theorem commandEffect_outLen {i : Instr} (hr : readsIn i = true) (s : State) :
    (commandEffect i s).outLen = BitVec.ofNat 32
      (if unpads i = true then (unpadGuard (outputBytes i s)).1.length else (outputBytes i s).length) := by
  cases i <;> simp only [readsIn, Bool.false_eq_true] at hr
  case encBlock | decBlock =>
    simp only [commandEffect, blockEffect_eq, outputBytes, blockBytes_length]
    rfl
  case ecbEnc => rw [commandEffect, ecbEncEffect_eq _ rfl]; rfl
  case cbcEnc => rw [commandEffect, cbcEncEffect_eq _ rfl]; rfl
  case pad => rw [commandEffect, padEffect_eq]; rfl
  case ecbDec => rw [commandEffect, ecbDecEffect_eq _ rfl]; rfl
  case cbcDec => rw [commandEffect, cbcDecEffect_eq _ rfl]; rfl
  case unpad => rw [commandEffect, unpadEffect_eq]; rfl

/-- OUT_LEN counts bytes that the command wrote to OUT. -/
theorem commandEffect_outLen_le {i : Instr} (hr : readsIn i = true) (s : State) :
    (commandEffect i s).outLen.toNat ≤ (outputBytes i s).length := by
  rw [commandEffect_outLen hr, BitVec.toNat_ofNat]
  refine (Nat.mod_le _ _).trans ?_
  split
  · exact unpadGuard_length_le _
  · exact le_rfl

theorem outLenOk_commandEffect {i : Instr} {s : State} (h : OutLenOk s) (hc : checkPreconditions i s = none) :
    OutLenOk (commandEffect i s) := by
  obtain ⟨hbuf, -⟩ := commandEffect_frame i s
  obtain ⟨-, -, hsame, -⟩ := commandEffect_result_frame i s
  cases hr : readsIn i with
  | false => exact h.congr (hsame hr) hbuf
  | true =>
    rw [OutLenOk, bufBytes, hbuf]
    calc (commandEffect i s).outLen.toNat
        ≤ (outputBytes i s).length := commandEffect_outLen_le hr s
      _ ≤ bufBytes s + 16 := (outputBytes_length hc).trans_le (blockInput_length_le hc)

theorem roundKeysOk_commandEffect {i : Instr} {s : State} (h : RoundKeysOk s) (hc : checkPreconditions i s = none) :
    RoundKeysOk (commandEffect i s) := by
  obtain ⟨-, -, hlen, -⟩ := checkPreconditions_none hc
  obtain ⟨-, -, -, hkeyLen, -, -, -, hkey, -⟩ := commandEffect_frame i s
  obtain ⟨f, hstatus, -⟩ := commandEffect_status i s
  intro hv
  rw [hkey, hkeyLen]
  cases hk : usesKey i with
  | true => exact ⟨memRead_rk_commandEffect hk s, hlen hk⟩
  | false =>
    rw [memRead_rk_commandEffect_of_not_usesKey hk]
    simp only [hstatus, hk, Bool.or_false] at hv
    exact h hv

/-- A completion leaves no error: the store cleared ERR and ERR_CODE. -/
theorem completion_status (i : Instr) (w : Word) (s : State) :
    (finish (commandEffect i (storeWord w s))).status.busy = false ∧
      (finish (commandEffect i (storeWord w s))).status.err = false ∧
      (finish (commandEffect i (storeWord w s))).status.errCode = .none := by
  obtain ⟨f, hstatus, -⟩ := commandEffect_status i (storeWord w s)
  simp [hstatus]

/-- A command from a consistent state ends in one, whichever way it ends. -/
theorem consistent_exec {s t : State} {i : Instr} (h : Consistent s) (he : exec i s = .next t) : Consistent t := by
  obtain ⟨e, hc, rfl⟩ | ⟨hc, rfl⟩ := exec_cases he
  · exact consistent_raiseError h (fun hnone => checkPreconditions_ne_none i s (hnone ▸ hc)) _
  · obtain ⟨hmem, hrk, -, -, hout, -⟩ := h
    obtain ⟨hb, herr, hcode⟩ := completion_status i (encode i) s
    have hc' : checkPreconditions i (storeWord (encode i) s) = none := hc
    refine ⟨memoryOk_commandEffect (s := storeWord (encode i) s) hmem hc',
      roundKeysOk_commandEffect (s := storeWord (encode i) s) hrk hc', ⟨?_, fun hb' => ?_⟩,
      controllerOk_idle hb rfl, outLenOk_commandEffect (s := storeWord (encode i) s) hout hc', fun _ => hb⟩
    · rw [herr, hcode]; simp
    · rw [hb] at hb'; cases hb'

/-! ## Clocks and steps -/

/-- A phase step keeps the invariant: it changes the hidden values of an executing command only. -/
theorem consistent_advance {s : State} {i : Instr} (h : Consistent s) (hp : s.ctl.phase ≠ .idle) :
    Consistent { s with ctl := advance i s } := by
  obtain ⟨hbusy, -⟩ := h.of_phase hp
  obtain ⟨hmem, hrk, hst, ⟨hrnd, haccept, -, hexec⟩, hout, hreset⟩ := h
  obtain ⟨-, hcmd, hchecks⟩ := hexec hbusy
  obtain ⟨hword, hidle, haccept', hrnd'⟩ := advance_frame i hp haccept hrnd
  refine ⟨hmem, hrk, hst, ⟨hrnd', haccept', fun hb => ?_, fun _ => ⟨hidle, hword.trans hcmd, hchecks⟩⟩, hout, hreset⟩
  rw [show s.status.busy = false from hb] at hbusy
  cases hbusy

theorem consistent_clockStep {s t : State} (h : Consistent s) (hclk : clockStep exec s = .next t) :
    Consistent t := by
  obtain rfl | ⟨-, -, i, -, he⟩ | ⟨-, hp, -, i, -, rfl⟩ | ⟨-, hp, ⟨why, hill⟩, -⟩ := clockStep_cases hclk
  · exact h
  · exact consistent_exec h he
  · exact consistent_advance h hp
  · obtain ⟨-, i, hd, -⟩ := h.of_phase hp
    rw [hd] at hill
    cases hill

theorem consistent_serveEvent {s t : State} {e : BusEvent} (h : Consistent s)
    (he : serveEvent exec e s = .next t) : Consistent t := by
  cases e with
  | read off => cases he; exact consistent_busRead h off
  | write off d => cases he; exact consistent_busWrite h off d
  | clock => exact consistent_clockStep h he
  | assertReset => cases he; exact consistent_of_reset rfl rfl rfl rfl
  | releaseReset =>
    cases he
    obtain ⟨hmem, hrk, hst, hctl, hout, -⟩ := h
    exact ⟨hmem, hrk, hst, hctl, hout, fun hr => by cases hr⟩

/-- Settles O44, event by event: a transaction keeps the parts its register is in, a completion those its effect
writes, and a phase step the controller's. -/
theorem everyStepKeepsTheInvariant : Obligations.EveryStepKeepsTheInvariant := by
  unfold Obligations.EveryStepKeepsTheInvariant
  intro s t h hstep
  obtain ⟨-, hclk⟩ | ⟨e, rest, -, he⟩ := step_cases hstep
  · exact consistent_clockStep h hclk
  · exact consistent_serveEvent (h.setTrace s.reply s.draws rest) he

/-! ## An accepted command never fails (R253) -/

/-- While a command runs no write reaches STATUS's ERR. -/
theorem busWrite_busy_err {s : State} (off : Offset) (d : Word) (hb : s.status.busy = true) :
    (busWrite off d s).status.err = s.status.err := by
  cases hr : s.inReset with
  | true => rw [busWrite_reset off d hr]; rfl
  | false =>
    by_cases ha : off.toNat % 4 = 0
    · rw [busWrite_busy d hr ha hb]; rfl
    · rw [busWrite_misaligned d hr ha]

/-- A clock of an accepted command is a phase step or the completion, whose checks passed at the store. -/
theorem clockStep_err {s t : State} (h : Consistent s) (hb : s.status.busy = true)
    (hclk : clockStep exec s = .next t) : t.status.err = false := by
  obtain ⟨-, -, ⟨-, hflags⟩, -, -, -⟩ := id h
  obtain ⟨-, herr, -⟩ := hflags hb
  obtain rfl | ⟨-, hp, i, hd, he⟩ | ⟨-, -, -, i, -, rfl⟩ | ⟨-, hp, ⟨why, hill⟩, -⟩ := clockStep_cases hclk
  · exact herr
  · obtain ⟨-, j, hj, hc⟩ := h.of_phase (by rw [hp]; simp)
    cases hd.symm.trans hj
    rw [exec_of_ok hc] at he
    cases he
    exact (completion_status i (encode i) s).2.1
  · exact herr
  · obtain ⟨-, i, hd, -⟩ := h.of_phase hp
    rw [hd] at hill
    cases hill

/-- Settles O45: while BUSY the invariant has ERR = 0 and the captured command's checks passed; no event of a step
sets ERR then. -/
theorem acceptedCommandsNeverFail : Obligations.AcceptedCommandsNeverFail := by
  unfold Obligations.AcceptedCommandsNeverFail
  intro s t h hb hstep
  obtain ⟨-, hclk⟩ | ⟨e, rest, -, he⟩ := step_cases hstep
  · exact clockStep_err h hb hclk
  · have h' : Consistent { s with inputs := rest } := h.setTrace s.reply s.draws rest
    obtain ⟨-, -, ⟨-, hflags⟩, -, -, -⟩ := id h
    obtain ⟨-, herr, -⟩ := hflags hb
    cases e with
    | read off => cases he; exact (congrArg Status.err (busRead_status ..)).trans herr
    | write off d => cases he; exact (busWrite_busy_err (s := { s with inputs := rest }) off d hb).trans herr
    | clock => exact clockStep_err h' hb he
    | assertReset => cases he; rfl
    | releaseReset => cases he; exact herr

/-! ## BUSY or DONE (R72) -/

theorem exec_busy {i : Instr} {s t : State} (h : exec i s = .next t) : t.status.busy = false := by
  obtain ⟨e, -, rfl⟩ | ⟨-, rfl⟩ := exec_cases h <;> rfl

/-- A clock keeps STATUS or completes a command, which ends with DONE in place of BUSY. -/
theorem clockStep_busy_ne_done {s t : State} (hclk : clockStep exec s = .next t)
    (hne : s.status.busy ≠ s.status.done) : t.status.busy ≠ t.status.done := by
  obtain rfl | ⟨-, -, i, -, he⟩ | ⟨-, -, -, i, -, rfl⟩ | ⟨-, -, -, rfl⟩ := clockStep_cases hclk
  · exact hne
  · rw [exec_busy he, exec_done he]; decide
  · exact hne
  · simp

/-- Settles O40: a store ends with DONE or with BUSY, a read leaves STATUS, and a clock leaves it or turns BUSY into
DONE. -/
theorem statusShowsBusyOrDoneAfterAStore : Obligations.StatusShowsBusyOrDoneAfterAStore := by
  unfold Obligations.StatusShowsBusyOrDoneAfterAStore
  refine ⟨fun s w hs => ?_, fun s t hstep _ hne hin _ => ?_⟩
  · obtain ⟨hb, hr⟩ := hs
    rw [busWrite_cmd w hr hb]
    obtain ⟨e, -, hstore⟩ | ⟨i, -, -, hstore⟩ := storeCommand_cases w s <;> simp [hstore]
  · obtain hin | ⟨rest, hin⟩ | ⟨off, rest, hin⟩ := hin
    · rw [step_of_no_input hin] at hstep
      exact clockStep_busy_ne_done hstep hne
    · rw [step_of_input hin] at hstep
      exact clockStep_busy_ne_done (s := { s with inputs := rest }) hstep hne
    · rw [step_of_input hin] at hstep
      cases hstep
      rw [busRead_status]
      exact hne

end Sys2Proof.Machine
end

section
/-! SUPPORT. The settled statements of 41_constants_gf.md and 42_round_primitives.md: the laws of GF(2^8) (R136), the
S-box and the round constants (R130 to R132), and the round primitives with their inverses (R150 to R156). -/

namespace Sys2Proof.Machine

/-! ## Every byte is built from 1 by shifts and XOR

So a law that is linear in a byte has to be shown of 0, 1, a shift and an XOR only. -/

/-- Bit k of a byte, as the product's shift moves it there: 1 shifted k times. -/
def gfBit (a : Byte) (k : Nat) : Byte := if a.getLsbD k then gfShift^[k] 1 else 0

theorem byte_eq_xor_gfBit (a : Byte) :
    a = gfBit a 0 ^^^ gfBit a 1 ^^^ gfBit a 2 ^^^ gfBit a 3 ^^^ gfBit a 4 ^^^ gfBit a 5 ^^^ gfBit a 6 ^^^
      gfBit a 7 := by
  revert a; decide

theorem gf_induction {P : Byte → Prop} (zero : P 0#8) (one : P 1#8) (shift : ∀ a, P a → P (gfShift a))
    (xor : ∀ a b, P a → P b → P (a ^^^ b)) (a : Byte) : P a := by
  have hpow (k : Nat) : P (gfShift^[k] 1) := by
    induction k with
    | zero => exact one
    | succ k ih => rw [Function.iterate_succ_apply']; exact shift _ ih
  have hbit (k : Nat) : P (gfBit a k) := by
    unfold gfBit
    split
    · exact hpow k
    · exact zero
  rw [byte_eq_xor_gfBit a]
  exact xor _ _ (xor _ _ (xor _ _ (xor _ _ (xor _ _ (xor _ _ (xor _ _ (hbit 0) (hbit 1)) (hbit 2)) (hbit 3))
    (hbit 4)) (hbit 5)) (hbit 6)) (hbit 7)

/-! ## The laws of the product (R136) -/

/-- The loop is linear in its second operand. -/
theorem gfLoop_xor_right (n : Nat) (a b b' : Byte) :
    gfLoop n 0 a (b ^^^ b') = gfLoop n 0 a b ^^^ gfLoop n 0 a b' := by
  induction n generalizing a b b' with
  | zero => simp [gfLoop]
  | succ n ih =>
    rw [gfLoop_succ, gfLoop_succ, gfLoop_succ, BitVec.ushiftRight_xor_distrib, ih, BitVec.getLsbD_xor]
    have hadd : (if (b.getLsbD 0 ^^ b'.getLsbD 0) then a else 0) =
        (if b.getLsbD 0 then a else 0) ^^^ (if b'.getLsbD 0 then a else 0) := by
      cases b.getLsbD 0 <;> cases b'.getLsbD 0 <;> simp
    rw [hadd]
    ac_rfl

/-- The product is linear in its second operand. -/
theorem gfMul_xor_right (a b b' : Byte) : gfMul a (b ^^^ b') = gfMul a b ^^^ gfMul a b' :=
  gfLoop_xor_right 8 a b b'

/-- A shift of the first operand is a shift of the loop's result. -/
theorem gfLoop_shift (n : Nat) (a b : Byte) : gfLoop n 0 (gfShift a) b = gfShift (gfLoop n 0 a b) := by
  induction n generalizing a b with
  | zero => simp [gfLoop]
  | succ n ih =>
    rw [gfLoop_succ, gfLoop_succ, gfShift_xor, ih]
    cases b.getLsbD 0 <;> simp

theorem gfMul_shift_left (a b : Byte) : gfMul (gfShift a) b = gfShift (gfMul a b) := gfLoop_shift 8 a b

@[simp] theorem gfMul_zero_left (b : Byte) : gfMul 0#8 b = 0#8 := by
  simpa using gfMul_xor_left 0 0 b

@[simp] theorem gfMul_zero_right (a : Byte) : gfMul a 0#8 = 0#8 := by
  simpa using gfMul_xor_right a 0 0

@[simp] theorem gfMul_one_right (a : Byte) : gfMul a 1#8 = a := by
  induction a using gf_induction with
  | zero => rfl
  | one => rfl
  | shift a ih => rw [gfMul_shift_left, ih]
  | xor a b iha ihb => rw [gfMul_xor_left, iha, ihb]

theorem gfMul_shift_right (a b : Byte) : gfMul a (gfShift b) = gfShift (gfMul a b) := by
  induction a using gf_induction with
  | zero => simp
  | one => revert b; decide
  | shift a ih => rw [gfMul_shift_left, gfMul_shift_left, ih]
  | xor a a' ih ih' => rw [gfMul_xor_left, gfMul_xor_left, gfShift_xor, ih, ih']

@[simp] theorem gfMul_one_left (b : Byte) : gfMul 1#8 b = b := by
  induction b using gf_induction with
  | zero => rfl
  | one => rfl
  | shift b ih => rw [gfMul_shift_right, ih]
  | xor b b' ih ih' => rw [gfMul_xor_right, ih, ih']

theorem gfMul_comm (a b : Byte) : gfMul a b = gfMul b a := by
  induction a using gf_induction with
  | zero => simp
  | one => rw [gfMul_one_left, gfMul_one_right]
  | shift a ih => rw [gfMul_shift_left, gfMul_shift_right, ih]
  | xor a a' ih ih' => rw [gfMul_xor_left, gfMul_xor_right, ih, ih']

theorem gfMul_assoc (a b c : Byte) : gfMul (gfMul a b) c = gfMul a (gfMul b c) := by
  induction a using gf_induction with
  | zero => simp
  | one => rw [gfMul_one_left, gfMul_one_left]
  | shift a ih => rw [gfMul_shift_left, gfMul_shift_left, gfMul_shift_left, ih]
  | xor a a' ih ih' => rw [gfMul_xor_left, gfMul_xor_left, gfMul_xor_left, ih, ih']

/-- Multiplication by 2 is the shift with reduction. -/
theorem gfMul_two (a : Byte) : gfMul a 0x02 = (a <<< 1) ^^^ (if a.getLsbD 7 then 0x1B else 0x00) := by
  rw [show (0x02 : Byte) = gfShift 1#8 from rfl, gfMul_shift_right, gfMul_one_right, gfShift]
  split
  · rfl
  · exact (BitVec.xor_zero).symm

/-! ## Inverses, and the S-box (R130, R131) -/

/-- The affine map of the S-box. -/
def affineMap (b : Byte) : Byte :=
  b ^^^ b.rotateLeft 1 ^^^ b.rotateLeft 2 ^^^ b.rotateLeft 3 ^^^ b.rotateLeft 4 ^^^ 0x63

/-- The inverse of a byte, read off its S-box entry by undoing the affine map; 0 for 0. -/
def gfInv (x : Byte) : Byte :=
  let y := sBox x ^^^ 0x63
  y.rotateLeft 1 ^^^ y.rotateLeft 3 ^^^ y.rotateLeft 6

theorem affineMap_gfInv (x : Byte) : affineMap (gfInv x) = sBox x := by
  revert x; decide

theorem gfMul_gfInv {x : Byte} (h : x ≠ 0) : gfMul x (gfInv x) = 1 := by
  revert x; decide

theorem gfInv_zero : gfInv 0 = 0 := rfl

theorem gfMul_left_cancel {a b c : Byte} (ha : a ≠ 0) (h : gfMul a b = gfMul a c) : b = c := by
  have hinv : gfMul (gfInv a) a = 1#8 := (gfMul_comm _ _).trans (gfMul_gfInv ha)
  calc b = gfMul (gfInv a) (gfMul a b) := by rw [← gfMul_assoc, hinv, gfMul_one_left]
    _ = c := by rw [h, ← gfMul_assoc, hinv, gfMul_one_left]

/-- Settles O50: the product is linear in both operands and commutes with the shift, so its laws hold of every byte once
they hold of 1; the S-box gives each byte its inverse. -/
theorem gfFieldLaws : Obligations.GfFieldLaws := by
  unfold Obligations.GfFieldLaws
  refine ⟨gfMul_comm, gfMul_assoc, gfMul_xor_right, fun a => ⟨gfMul_zero_right a, gfMul_one_right a, gfMul_two a⟩,
    fun a ha => ⟨gfInv a, gfMul_gfInv ha, fun b hb => ?_⟩⟩
  exact gfMul_left_cancel ha (hb.trans (gfMul_gfInv ha).symm)

theorem invSBox_sBox (x : Byte) : invSBox (sBox x) = x := by
  revert x; decide

theorem sBox_invSBox (y : Byte) : sBox (invSBox y) = y := by
  revert y; decide

/-- Settles O51: the inverse and the affine map give each entry of the table, the two tables undo each other, and the
round constants double. -/
theorem sBoxIsTheAffineMapOfTheInverse : Obligations.SBoxIsTheAffineMapOfTheInverse := by
  unfold Obligations.SBoxIsTheAffineMapOfTheInverse
  refine ⟨fun x => ⟨gfInv x, fun h => ?_, gfMul_gfInv, (affineMap_gfInv x).symm⟩, invSBox_sBox, sBox_invSBox, rfl,
    fun k h1 h9 => ?_, rfl, fun k h => ?_⟩
  · rw [h, gfInv_zero]
  · interval_cases k <;> rfl
  · rw [rcon, if_neg (by omega)]
    exact List.getD_eq_default _ _ (by simp only [rconRow, List.length_cons, List.length_nil]; omega)

/-! ## The round primitives (R150 to R156) -/

@[simp] theorem addRoundKey_get (s k : Block) (i : Nat) (h : i < 16) : (addRoundKey s k)[i] = s[i] ^^^ k[i] :=
  xorBlock_get s k i h

/-- Byte k of MixColumns or its inverse: row k mod 4 of the matrix times column k / 4. -/
theorem mixWith_get (rows : List (List Byte)) (s : Block) (k : Nat) (h : k < 16) :
    (mixWith rows s)[k] =
      gfMul (matrixEntry rows (k % 4) 0) (s[k / 4 * 4 + 0]'(by omega)) ^^^
      gfMul (matrixEntry rows (k % 4) 1) (s[k / 4 * 4 + 1]'(by omega)) ^^^
      gfMul (matrixEntry rows (k % 4) 2) (s[k / 4 * 4 + 2]'(by omega)) ^^^
      gfMul (matrixEntry rows (k % 4) 3) (s[k / 4 * 4 + 3]'(by omega)) := by
  simp [mixWith]

/-- The entry of the product of two matrices. -/
def matrixProduct (m n : List (List Byte)) (i j : Nat) : Byte :=
  gfMul (matrixEntry m i 0) (matrixEntry n 0 j) ^^^ gfMul (matrixEntry m i 1) (matrixEntry n 1 j) ^^^
    gfMul (matrixEntry m i 2) (matrixEntry n 2 j) ^^^ gfMul (matrixEntry m i 3) (matrixEntry n 3 j)

/-- A column multiplied by one matrix and then by another is multiplied by their product. -/
theorem mixWith_mixWith_get (m n : List (List Byte)) (s : Block) (k : Nat) (h : k < 16) :
    (mixWith m (mixWith n s))[k] =
      gfMul (matrixProduct m n (k % 4) 0) (s[k / 4 * 4 + 0]'(by omega)) ^^^
      gfMul (matrixProduct m n (k % 4) 1) (s[k / 4 * 4 + 1]'(by omega)) ^^^
      gfMul (matrixProduct m n (k % 4) 2) (s[k / 4 * 4 + 2]'(by omega)) ^^^
      gfMul (matrixProduct m n (k % 4) 3) (s[k / 4 * 4 + 3]'(by omega)) := by
  have hcol (j : Nat) (hj : j < 4) : (k / 4 * 4 + j) / 4 = k / 4 ∧ (k / 4 * 4 + j) % 4 = j := by omega
  simp only [mixWith_get, hcol 0 (by omega), hcol 1 (by omega), hcol 2 (by omega), hcol 3 (by omega), matrixProduct,
    gfMul_xor_right, gfMul_xor_left, gfMul_assoc]
  ac_rfl

/-- Two matrices whose product is the identity undo each other on every column. -/
theorem mixWith_mixWith {m n : List (List Byte)}
    (h : ∀ i j : Fin 4, matrixProduct m n i.val j.val = if i = j then 1 else 0) (s : Block) :
    mixWith m (mixWith n s) = s := by
  refine block_ext fun k => ?_
  obtain ⟨r, hr⟩ : ∃ r : Fin 4, k.val % 4 = r.val := ⟨⟨k.val % 4, by omega⟩, rfl⟩
  have hbyte : s[k.val] = s[k.val / 4 * 4 + r.val]'(by omega) := by congr 1; omega
  have h0 : matrixProduct m n r.val 0 = if r = 0 then 1 else 0 := h r 0
  have h1 : matrixProduct m n r.val 1 = if r = 1 then 1 else 0 := h r 1
  have h2 : matrixProduct m n r.val 2 = if r = 2 then 1 else 0 := h r 2
  have h3 : matrixProduct m n r.val 3 = if r = 3 then 1 else 0 := h r 3
  rw [mixWith_mixWith_get m n s k.val k.isLt, hbyte]
  simp only [hr, h0, h1, h2, h3]
  fin_cases r <;> simp

theorem invMixColumns_mixColumns (s : Block) : invMixColumns (mixColumns s) = s := mixWith_mixWith (by decide) s

theorem mixColumns_invMixColumns (s : Block) : mixColumns (invMixColumns s) = s := mixWith_mixWith (by decide) s

theorem invSubBytes_subBytes (s : Block) : invSubBytes (subBytes s) = s :=
  block_ext fun i => by simp [invSBox_sBox]

theorem subBytes_invSubBytes (s : Block) : subBytes (invSubBytes s) = s :=
  block_ext fun i => by simp [sBox_invSBox]

/-- ShiftRows is the index permutation P. -/
theorem shiftRows_eq (s : Block) :
    shiftRows s = #v[s[0], s[5], s[10], s[15], s[4], s[9], s[14], s[3], s[8], s[13], s[2], s[7], s[12], s[1],
      s[6], s[11]] := by
  refine block_ext fun i => ?_
  simp only [shiftRows, Vector.getElem_ofFn]
  fin_cases i <;> rfl

/-- InvShiftRows is the index permutation Q. -/
theorem invShiftRows_eq (s : Block) :
    invShiftRows s = #v[s[0], s[13], s[10], s[7], s[4], s[1], s[14], s[11], s[8], s[5], s[2], s[15], s[12],
      s[9], s[6], s[3]] := by
  refine block_ext fun i => ?_
  simp only [invShiftRows, Vector.getElem_ofFn]
  fin_cases i <;> rfl

/-- P and Q are inverse permutations of the sixteen indices. -/
theorem invShiftRows_shiftRows (s : Block) : invShiftRows (shiftRows s) = s := by
  rw [invShiftRows_eq, shiftRows_eq]
  refine block_ext fun i => ?_
  fin_cases i <;> rfl

theorem shiftRows_invShiftRows (s : Block) : shiftRows (invShiftRows s) = s := by
  rw [shiftRows_eq, invShiftRows_eq]
  refine block_ext fun i => ?_
  fin_cases i <;> rfl

@[simp] theorem addRoundKey_addRoundKey (s k : Block) : addRoundKey (addRoundKey s k) k = s := xorBlock_xorBlock s k

/-- Byte r of column c: row r of the matrix times the column. -/
theorem mixWith_column (rows : List (List Byte)) (s : Block) (c r : Fin 4) :
    (mixWith rows s)[4 * c.val + r.val] =
      gfMul (matrixEntry rows r.val 0) s[4 * c.val] ^^^ gfMul (matrixEntry rows r.val 1) s[4 * c.val + 1] ^^^
      gfMul (matrixEntry rows r.val 2) s[4 * c.val + 2] ^^^ gfMul (matrixEntry rows r.val 3) s[4 * c.val + 3] := by
  have hrow : (4 * c.val + r.val) % 4 = r.val := by omega
  have hcol : (4 * c.val + r.val) / 4 * 4 = 4 * c.val := by omega
  simp only [mixWith_get, hrow, hcol, Nat.add_zero]

/-- Settles O52: each primitive byte by byte from its definition; the two tables, the two permutations and the two
matrices are inverse in both orders, and XOR undoes itself. -/
theorem roundPrimitivesAreInvertible : Obligations.RoundPrimitivesAreInvertible := by
  unfold Obligations.RoundPrimitivesAreInvertible
  refine ⟨fun s k i => ⟨subBytes_get s i.val i.isLt, invSubBytes_get s i.val i.isLt, addRoundKey_get s k i.val i.isLt⟩,
    fun s => ⟨shiftRows_eq s, invShiftRows_eq s⟩, ?_, fun s => ⟨invSubBytes_subBytes s, subBytes_invSubBytes s⟩,
    fun s => ⟨invShiftRows_shiftRows s, shiftRows_invShiftRows s⟩,
    fun s => ⟨invMixColumns_mixColumns s, mixColumns_invMixColumns s⟩, addRoundKey_addRoundKey⟩
  rintro s c _ _ _ _ rfl rfl rfl rfl
  have hmix := mixWith_column mixRows s c
  have hinv := mixWith_column invMixRows s c
  exact ⟨hmix 0, hmix 1, hmix 2, hmix 3, hinv 0, hinv 1, hinv 2, hinv 3⟩

end Sys2Proof.Machine
end

section
/-! SUPPORT. The settled statements of 44_block_cipher.md, 45_padding.md and 46_modes.md on byte sequences: Cipher and
InvCipher undo each other (R192), padding and its removal (R210, R216), and the round trips of the modes (R237, R240). -/

namespace Sys2Proof.Machine

/-! ## Cipher and InvCipher (R192)

Between its AddRoundKey steps a decryption runs through the states `shiftRows (subBytes s)` of the encryption, and an
encryption through the states `invSubBytes (invShiftRows s)` of the decryption. -/

/-- The last of n + 1 rounds comes after the first n. -/
theorem encRounds_succ (rk : Bytes) (n r : Nat) (s : Block) :
    encRounds rk (n + 1) r s = encRound (roundKey rk (r + n)) (encRounds rk n r s) := by
  induction n generalizing r s with
  | zero => rfl
  | succ n ih =>
    rw [encRounds, ih (r + 1) (encRound (roundKey rk r) s), Nat.add_assoc, Nat.add_comm 1 n]
    rfl

/-- A decryption round undoes the encryption round with its key. -/
theorem decRound_encRound (k s : Block) :
    decRound k (shiftRows (subBytes (encRound k s))) = shiftRows (subBytes s) := by
  rw [decRound, invShiftRows_shiftRows, invSubBytes_subBytes, encRound, addRoundKey_addRoundKey,
    invMixColumns_mixColumns]

theorem decRounds_encRounds (rk : Bytes) (n : Nat) (s : Block) :
    decRounds rk n (shiftRows (subBytes (encRounds rk n 1 s))) = shiftRows (subBytes s) := by
  induction n with
  | zero => rfl
  | succ n ih => rw [decRounds, encRounds_succ, Nat.add_comm 1 n, decRound_encRound, ih]

/-- An encryption round undoes the decryption round with its key. -/
theorem encRound_decRound (k s : Block) :
    encRound k (invSubBytes (invShiftRows (decRound k s))) = invSubBytes (invShiftRows s) := by
  rw [encRound, subBytes_invSubBytes, shiftRows_invShiftRows, decRound, mixColumns_invMixColumns,
    addRoundKey_addRoundKey]

theorem encRounds_decRounds (rk : Bytes) (n : Nat) (s : Block) :
    encRounds rk n 1 (invSubBytes (invShiftRows (decRounds rk n s))) = invSubBytes (invShiftRows s) := by
  induction n generalizing s with
  | zero => rfl
  | succ n ih => rw [decRounds, encRounds_succ, Nat.add_comm 1 n, ih, encRound_decRound]

/-- InvCipher undoes Cipher under any schedule. -/
theorem invCipher_cipher (block : Block) (rk : Bytes) : invCipher (cipher block rk) rk = block := by
  rw [invCipher, cipher, encFinal, addRoundKey_addRoundKey, decRounds_encRounds, decFinal, invShiftRows_shiftRows,
    invSubBytes_subBytes, addRoundKey_addRoundKey]

/-- Cipher undoes InvCipher under any schedule. -/
theorem cipher_invCipher (block : Block) (rk : Bytes) : cipher (invCipher block rk) rk = block := by
  rw [cipher, invCipher, decFinal, addRoundKey_addRoundKey, encRounds_decRounds, encFinal, subBytes_invSubBytes,
    shiftRows_invShiftRows, addRoundKey_addRoundKey]

/-- Settles O54: round by round each undoes the other, whatever the schedule is. -/
theorem cipherAndInvCipherUndoEachOther : Obligations.CipherAndInvCipherUndoEachOther := by
  unfold Obligations.CipherAndInvCipherUndoEachOther
  exact fun block key => ⟨invCipher_cipher block (keyExpansion key), cipher_invCipher block (keyExpansion key)⟩

/-! ## Padding (R210, R216) -/

theorem padCount_bounds (m : Bytes) : 1 ≤ padCount m ∧ padCount m ≤ 16 := by
  unfold padCount
  omega

/-- The last byte of a padded message is the padding's count. -/
theorem unpadCount_padBytes (m : Bytes) : unpadCount (padBytes m) = padCount m := by
  obtain ⟨h1, h16⟩ := padCount_bounds m
  rw [unpadCount, padBytes, List.getLastD_eq_getLast?, List.getLast?_append, List.getLast?_replicate,
    if_neg (by omega)]
  simp only [Option.some_or, Option.getD_some, BitVec.toNat_ofNat]
  omega

/-- The guarded unpad gives a padded message back where there is a message (R216). -/
theorem unpadGuard_padBytes {m : Bytes} (h : m ≠ []) : unpadGuard (padBytes m) = (m, false) := by
  obtain ⟨h1, -⟩ := padCount_bounds m
  have hpos : 0 < m.length := List.length_pos_iff.2 h
  have hlen : (padBytes m).length = m.length + padCount m := by simp [padBytes]
  have hcount := unpadCount_padBytes m
  rw [unpadGuard_of_strips (by omega), hcount, hlen, Nat.add_sub_cancel, padBytes, List.take_left]

/-- Settles O56: the padding's count is its last byte, which is below the padded length exactly where the message is not
empty. -/
theorem paddingRoundTrip : Obligations.PaddingRoundTrip := by
  unfold Obligations.PaddingRoundTrip
  refine ⟨fun m n hn => ?_, fun m => ?_, fun m => unpadGuard_padBytes, by decide⟩
  · subst hn
    exact ⟨rfl, padCount_bounds m⟩
  · rw [padBytes_length]
    omega

/-! ## The modes' round trips (R237) -/

/-- ECB decryption undoes ECB encryption block by block. -/
theorem ecbDecBytes_ecbEncBytes {d : Bytes} (rk : Bytes) (h : d.length % 16 = 0) :
    ecbDecBytes (ecbEncBytes d rk) rk = d := by
  have hid : (fun b => invCipher b rk) ∘ (fun b => cipher b rk) = id := funext fun b => invCipher_cipher b rk
  rw [ecbDecBytes, ecbEncBytes, blocks_joinBlocks, List.map_map, hid, List.map_id, joinBlocks_blocks h]

/-- CBC decryption chains on the ciphertext blocks that the encryption chained on. -/
theorem cbcDecBlocks_cbcEncBlocks (rk : Bytes) (iv : Block) (ps : List Block) :
    (cbcDecBlocks rk iv (cbcEncBlocks rk iv ps).1).1 = ps := by
  induction ps generalizing iv with
  | nil => rfl
  | cons p ps ih => rw [cbcEncBlocks, cbcDecBlocks, ih, invCipher_cipher, xorBlock_xorBlock]

theorem cbcDecBytes_cbcEncBytes {d : Bytes} (rk : Bytes) (iv : Block) (h : d.length % 16 = 0) :
    (cbcDecBytes (cbcEncBytes d rk iv).1 rk iv).1 = d := by
  rw [cbcDecBytes, blocks_cbcEncBytes, cbcDecBlocks_cbcEncBlocks, joinBlocks_blocks h]

theorem prepare_length_aligned (m : Bytes) : (prepare m).length % 16 = 0 := by
  rw [prepare_length]
  omega

/-- Settles O59: in both modes the decryption gives the prepared message back, which is the padded one where the message
is not block-aligned and otherwise the message itself, whose last byte the guard then reads. -/
theorem modeRoundTrips : Obligations.ModeRoundTrips := by
  unfold Obligations.ModeRoundTrips
  intro m key iv p hm hp
  have hprep : p = prepare m := by
    obtain rfl | rfl := hp
    · exact ecbDecBytes_ecbEncBytes _ (prepare_length_aligned m)
    · exact cbcDecBytes_cbcEncBytes _ _ (prepare_length_aligned m)
  rw [hprep, show (m.getLastD 0).toNat = unpadCount m from rfl]
  refine ⟨fun hal => ?_, fun hal hcount => ?_, fun hal hcount => ?_⟩
  · rw [prepare, if_pos hal, unpadGuard_padBytes hm]
  · rw [prepare_of_aligned hal, unpadGuard_of_not_strips (by omega)]
  · rw [prepare_of_aligned hal, unpadGuard_of_strips (by omega)]

/-- Settles O60: each ciphertext block is the Cipher of its own plaintext block and of nothing else. -/
theorem ecbIsDeterministicPerBlock : Obligations.EcbIsDeterministicPerBlock := by
  unfold Obligations.EcbIsDeterministicPerBlock
  intro d rk j k _ hj hk heq
  rw [slice_ecbEncBytes d rk j (by omega), slice_ecbEncBytes d rk k (by omega), heq]
  exact ⟨rfl, blockBytes_length _⟩

end Sys2Proof.Machine
end

section
/-! SUPPORT. The hidden controller step by step (44_block_cipher.md R194, R195): the phase steps of a block, and the
settled statement of what they compute. -/

namespace Sys2Proof.Machine

/-! ## The controller's step, over the operands of a state -/

/-- One phase step of the controller c of a command i whose operands are those of s. -/
def ctlStep (i : Instr) (s : State) (c : Controller) : Controller := advance i { s with ctl := c }

/-- Phase steps change the controller only, so n of them from s are n steps over the operands of s. -/
theorem iterate_advance (i : Instr) (n : Nat) (s : State) :
    (fun t : State => { t with ctl := advance i t })^[n] s = { s with ctl := (ctlStep i s)^[n] s.ctl } := by
  induction n with
  | zero => rfl
  | succ n ih => rw [Function.iterate_succ_apply', ih, Function.iterate_succ_apply']; rfl

section Phases
variable {i : Instr} {s : State} {c : Controller}

theorem ctlStep_keyexp (h : c.phase = .keyexp) : ctlStep i s c = keyexpStep i s c := by
  simp only [ctlStep, advance, h]; rfl

theorem ctlStep_load (h : c.phase = .load) : ctlStep i s c = loadStep i s c := by
  simp only [ctlStep, advance, h]; rfl

theorem ctlStep_init (h : c.phase = .init) : ctlStep i s c = initStep i c := by
  simp only [ctlStep, advance, h]

theorem ctlStep_round (h : c.phase = .round) : ctlStep i s c = roundStep i c := by
  simp only [ctlStep, advance, h]

theorem ctlStep_final (h : c.phase = .final) : ctlStep i s c = finalStep i c := by
  simp only [ctlStep, advance, h]

theorem ctlStep_store (h : c.phase = .store) : ctlStep i s c = storeStep i s c := by
  simp only [ctlStep, advance, h]; rfl

theorem ctlStep_unpad (h : c.phase = .unpad) : ctlStep i s c = unpadStep c := by
  simp only [ctlStep, advance, h]

theorem ctlStep_complete (h : c.phase = .complete) : ctlStep i s c = c := by
  simp only [ctlStep, advance, h]

end Phases

/-! ## The eleven steps of a block (R194, R195) -/

/-- The encryption rounds from rnd up to 9 lead to FINAL. -/
theorem iterate_round_encipher {i : Instr} (hi : engine i = .encipher) (s : State) (n : Nat) (c : Controller)
    (hp : c.phase = .round) (hr : c.rnd + n = 9) :
    (ctlStep i s)^[n + 1] c =
      { c with phase := .final, rnd := 10, work := encRounds c.sched (n + 1) c.rnd c.work } := by
  induction n generalizing c with
  | zero =>
    rw [Function.iterate_one, ctlStep_round hp]
    simp [roundStep, hi, encRounds, show c.rnd = 9 from hr]
  | succ n ih =>
    have hstep : ctlStep i s c =
        { c with rnd := c.rnd + 1, work := encRound (roundKey c.sched c.rnd) c.work } := by
      rw [ctlStep_round hp]
      simp [roundStep, hi, show c.rnd < 9 by omega]
    rw [Function.iterate_succ_apply, hstep, ih { c with
      rnd := c.rnd + 1, work := encRound (roundKey c.sched c.rnd) c.work } hp (by simp only; omega)]
    rfl

/-- The decryption rounds from rnd down to 1 lead to FINAL. -/
theorem iterate_round_decipher {i : Instr} (hi : engine i = .decipher) (s : State) (n : Nat) (c : Controller)
    (hp : c.phase = .round) (hr : c.rnd = n + 1) :
    (ctlStep i s)^[n + 1] c =
      { c with phase := .final, rnd := 0, work := decRounds c.sched (n + 1) c.work } := by
  induction n generalizing c with
  | zero =>
    rw [Function.iterate_one, ctlStep_round hp]
    simp [roundStep, hi, decRounds, hr]
  | succ n ih =>
    have hstep : ctlStep i s c =
        { c with rnd := n + 1, work := decRound (roundKey c.sched (n + 2)) c.work } := by
      rw [ctlStep_round hp]
      simp [roundStep, hi, hr]
    rw [Function.iterate_succ_apply, hstep, ih { c with
      rnd := n + 1, work := decRound (roundKey c.sched (n + 2)) c.work } hp rfl]
    rfl

/-- From INIT, an enciphering command reaches STORE with Cipher of the loaded block. -/
theorem iterate_block_encipher {i : Instr} (hi : engine i = .encipher) (s : State) (c : Controller)
    (hp : c.phase = .init) :
    (ctlStep i s)^[11] c = { c with phase := .store, rnd := 10, work := cipher c.work c.sched } := by
  rw [Function.iterate_succ_apply', Function.iterate_succ_apply, ctlStep_init hp, initStep, if_neg (by simp [hi]),
    iterate_round_encipher hi s 8 _ rfl rfl, ctlStep_final rfl, finalStep, if_neg (by simp [hi])]
  rfl

/-- From INIT, a deciphering command reaches STORE with InvCipher of the loaded block. -/
theorem iterate_block_decipher {i : Instr} (hi : engine i = .decipher) (s : State) (c : Controller)
    (hp : c.phase = .init) :
    (ctlStep i s)^[11] c = { c with phase := .store, rnd := 0, work := invCipher c.work c.sched } := by
  rw [Function.iterate_succ_apply', Function.iterate_succ_apply, ctlStep_init hp, initStep, if_pos hi,
    iterate_round_decipher hi s 8 _ rfl rfl, ctlStep_final rfl, finalStep, if_pos hi]
  rfl

/-- Settles O48: the two functions unfold to their rounds, and INIT, the nine rounds and FINAL are those of the
function, one step each. -/
theorem roundStepsComputeTheCipher : Obligations.RoundStepsComputeTheCipher := by
  unfold Obligations.RoundStepsComputeTheCipher
  refine ⟨fun block rk => ⟨rfl, rfl⟩, fun i s hp => ⟨fun hi => ?_, fun hi => ?_⟩⟩
  · rw [iterate_advance]
    exact iterate_block_encipher hi s s.ctl hp
  · rw [iterate_advance]
    exact iterate_block_decipher hi s s.ctl hp

end Sys2Proof.Machine
end

section
/-! SUPPORT. The settled statements that join the store, the clocks and exec (40_command_control.md R110 to R115,
20_memory.md R70, R71): how many clocks an executing command has left, what transactions leave of a run, and that a
command's result is exec's whatever comes between. -/

namespace Sys2Proof.Machine

/-! ## The clocks left (the informative table of 70_reset_and_hazards.md R286; log 3) -/

/-- The clocks that lead to COMPLETE once b blocks are done: those of the blocks left and of the unpad step. -/
def clocksAfter (i : Instr) (s : State) (b : Nat) : Nat :=
  (if engine i = .copy then 1 else 13) * (blockCount i s - b) + (if unpads i = true then 1 else 0)

/-- The clocks that lead an executing controller to COMPLETE. -/
def clocksLeft (i : Instr) (s : State) (c : Controller) : Nat :=
  match c.phase with
  | .idle | .accept | .complete => 0
  | .keyexp => 11 - c.rnd + (if engine i = .schedule then 0 else clocksAfter i s c.blk)
  | .load => 13 + clocksAfter i s (c.blk + 1)
  | .init => 12 + clocksAfter i s (c.blk + 1)
  | .round => (if engine i = .decipher then c.rnd else 10 - c.rnd) + 2 + clocksAfter i s (c.blk + 1)
  | .final => 2 + clocksAfter i s (c.blk + 1)
  | .store => 1 + clocksAfter i s (c.blk + 1)
  | .unpad => 1

/-- The controller executes the command i: it has captured its word, is past ACCEPT, and its round counter is in the
range of its phase. -/
structure Executing (i : Instr) (c : Controller) : Prop where
  word : c.word = encode i
  rnd_le : c.rnd ≤ 10
  not_idle : c.phase ≠ .idle
  not_accept : c.phase ≠ .accept
  round : c.phase = .round → 1 ≤ c.rnd ∧ c.rnd ≤ 9

theorem clocksLeft_nextBlock (i : Instr) (s : State) (c : Controller) :
    clocksLeft i s (nextBlock i s c) = clocksAfter i s c.blk := by
  unfold nextBlock
  split
  · rename_i hblk
    have hleft : blockCount i s - c.blk = blockCount i s - (c.blk + 1) + 1 := by omega
    cases hi : engine i <;> simp [clocksLeft, clocksAfter, hi, hleft] <;> omega
  · rename_i hblk
    have hnone : blockCount i s - c.blk = 0 := by omega
    cases hu : unpads i <;> simp [afterBlocks, clocksLeft, clocksAfter, hu, hnone]

theorem nextBlock_phase_ne_round (i : Instr) (s : State) (c : Controller) : (nextBlock i s c).phase ≠ .round := by
  unfold nextBlock afterBlocks
  repeat' split
  all_goals simp

theorem ctlStep_frame {i : Instr} {c : Controller} (s : State) (h : Executing i c) :
    (ctlStep i s c).word = c.word ∧ (ctlStep i s c).phase ≠ .idle ∧ (ctlStep i s c).phase ≠ .accept ∧
      (ctlStep i s c).rnd ≤ 10 :=
  advance_frame i (s := { s with ctl := c }) h.not_idle h.not_accept h.rnd_le

/-- ROUND is entered with rnd 1 or 9 and left before rnd passes the other end. -/
theorem ctlStep_round_range {i : Instr} {c : Controller} (s : State) (h : Executing i c)
    (hp : (ctlStep i s c).phase = .round) : 1 ≤ (ctlStep i s c).rnd ∧ (ctlStep i s c).rnd ≤ 9 := by
  have hn := nextBlock_phase_ne_round i s
  cases hc : c.phase with
  | idle => exact absurd hc h.not_idle
  | accept => exact absurd hc h.not_accept
  | keyexp =>
    rw [ctlStep_keyexp hc, keyexpStep] at hp
    dsimp only at hp
    repeat' split at hp
    · simp [hc] at hp
    · simp at hp
    · exact absurd hp (hn _)
  | load => simp [ctlStep_load hc, loadStep] at hp
  | init =>
    rw [ctlStep_init hc, initStep]
    split <;> simp
  | round =>
    obtain ⟨h1, h9⟩ := h.round hc
    rw [ctlStep_round hc, roundStep] at hp ⊢
    by_cases hi : engine i = .decipher
    · by_cases hmore : 1 < c.rnd
      · simp only [hi, hmore, if_true]; omega
      · simp [hi, hmore] at hp
    · by_cases hmore : c.rnd < 9
      · simp only [hi, hmore, if_true, if_false]; omega
      · simp [hi, hmore] at hp
  | final =>
    rw [ctlStep_final hc, finalStep] at hp
    split at hp <;> simp at hp
  | store => rw [ctlStep_store hc] at hp; exact absurd hp (hn _)
  | unpad => simp [ctlStep_unpad hc, unpadStep] at hp
  | complete => simp [ctlStep_complete hc, hc] at hp

/-- A step of an executing command leaves it executing. -/
theorem executing_ctlStep {i : Instr} {c : Controller} (s : State) (h : Executing i c) :
    Executing i (ctlStep i s c) := by
  obtain ⟨hword, hidle, haccept, hrnd⟩ := ctlStep_frame s h
  exact ⟨hword.trans h.word, hrnd, hidle, haccept, ctlStep_round_range s h⟩

/-- Every step before COMPLETE takes one clock off. -/
theorem clocksLeft_ctlStep {i : Instr} {c : Controller} (s : State) (h : Executing i c) (hc : c.phase ≠ .complete) :
    clocksLeft i s (ctlStep i s c) + 1 = clocksLeft i s c := by
  have hn := clocksLeft_nextBlock i s
  cases hp : c.phase with
  | idle => exact absurd hp h.not_idle
  | accept => exact absurd hp h.not_accept
  | complete => exact absurd hp hc
  | keyexp =>
    have hrnd := h.rnd_le
    rw [ctlStep_keyexp hp, keyexpStep]
    dsimp only
    split
    · simp only [clocksLeft, hp]; omega
    · split
      · simp [clocksLeft, *]; omega
      · rw [hn]; simp [clocksLeft, *]; omega
  | load => rw [ctlStep_load hp]; simp only [loadStep, clocksLeft, hp]; omega
  | init =>
    rw [ctlStep_init hp, initStep]
    split <;> simp [clocksLeft, *] <;> omega
  | round =>
    obtain ⟨h1, h9⟩ := h.round hp
    rw [ctlStep_round hp, roundStep]
    dsimp only
    repeat' split
    all_goals simp [clocksLeft, *]; omega
  | final =>
    rw [ctlStep_final hp, finalStep]
    split <;> simp [clocksLeft, hp] <;> omega
  | store =>
    rw [ctlStep_store hp, storeStep, hn]
    simp [clocksLeft, hp]; omega
  | unpad =>
    rw [ctlStep_unpad hp]
    simp [clocksLeft, hp, unpadStep]

/-- Only COMPLETE has no clock left before it. -/
theorem phase_complete_iff {i : Instr} {c : Controller} (s : State) (h : Executing i c) :
    c.phase = .complete ↔ clocksLeft i s c = 0 := by
  refine ⟨fun hp => by simp [clocksLeft, hp], fun hleft => ?_⟩
  by_contra hc
  have := clocksLeft_ctlStep s h hc
  omega

theorem phase_ne_complete {i : Instr} {c : Controller} (s : State) (h : Executing i c)
    (hleft : 0 < clocksLeft i s c) : c.phase ≠ .complete :=
  fun hp => hleft.ne' ((phase_complete_iff s h).1 hp)

/-- As many steps as clocks are left reach COMPLETE. -/
theorem iterate_clocksLeft_phase {i : Instr} (s : State) (n : Nat) {c : Controller} (h : Executing i c)
    (hn : clocksLeft i s c = n) : ((ctlStep i s)^[n] c).phase = .complete := by
  induction n generalizing c with
  | zero => exact (phase_complete_iff s h).2 hn
  | succ n ih =>
    have hp := phase_ne_complete s h (by omega)
    have hleft := clocksLeft_ctlStep s h hp
    exact ih (executing_ctlStep s h) (by omega)

theorem leaveAccept_phase_ne_round (i : Instr) (s : State) (c : Controller) :
    (leaveAccept i s c).phase ≠ .round := by
  have hn := nextBlock_phase_ne_round i s
  unfold leaveAccept
  cases engine i with
  | single => simp
  | schedule => simp [startExpansion]
  | copy => exact hn _
  | encipher | decipher =>
    simp only
    split
    · exact hn _
    · simp [startExpansion]

/-- The table counts the clocks that ACCEPT is left with, and the completion's. -/
theorem clocksLeft_leaveAccept (i : Instr) (s : State) {c : Controller} (hblk : c.blk = 0) :
    clocksLeft i s (leaveAccept i s c) + 1 = cycleCount i s := by
  have hn := clocksLeft_nextBlock i s
  unfold leaveAccept cycleCount
  cases hi : engine i with
  | single => simp [clocksLeft]
  | schedule => simp [clocksLeft, startExpansion, hi]
  | copy =>
    simp only [hn, clocksAfter, hi, hblk]
    cases unpads i <;> simp
  | encipher | decipher =>
    simp only
    split
    · simp only [hn, clocksAfter, hi, hblk]
      cases unpads i <;> simp
    · simp only [startExpansion, clocksLeft, clocksAfter, hi, hblk, reduceCtorEq, if_false]
      cases unpads i <;> simp only [Bool.false_eq_true, if_false, if_true] <;> omega

theorem cycleCount_storeWord (i : Instr) (w : Word) (s : State) : cycleCount i (storeWord w s) = cycleCount i s := by
  cases i <;> rfl

/-- The controller at the end of the store transition (40_command_control.md R112). -/
def startController (i : Instr) (s : State) : Controller := (acceptCommand i (storeWord (encode i) s)).ctl

theorem executing_startController (i : Instr) (s : State) : Executing i (startController i s) := by
  rw [startController, acceptCommand_ctl]
  obtain ⟨hword, hidle, haccept, hrnd⟩ := leaveAccept_frame i (storeWord (encode i) s)
    (c := atAccept i (storeWord (encode i) s)) (Nat.zero_le _)
  refine ⟨hword, hrnd, hidle, haccept, fun hp => (leaveAccept_phase_ne_round _ _ _ hp).elim⟩

/-- The table counts the clocks after the store, the completion's included. -/
theorem clocksLeft_startController (i : Instr) (s : State) :
    clocksLeft i (storeWord (encode i) s) (startController i s) + 1 = cycleCount i s := by
  rw [← cycleCount_storeWord i (encode i) s, startController, acceptCommand_ctl]
  exact clocksLeft_leaveAccept i (storeWord (encode i) s) rfl

/-! ## What a run leaves in the operands

Between its store and its completion a command changes the controller, and the transactions change WIGN, the reply, the
draw counter and the pending events. All else stays as the store left it. -/

/-- What changes while a command executes. -/
structure Overlay where
  busy : Bool
  wign : Bool
  ctl : Controller
  reply : Option BusReply
  draws : Nat
  inputs : List BusEvent

/-- A state with the fields of an overlay in place of its own. -/
def Overlay.on (x : Overlay) (s : State) : State :=
  { s with
    status := { s.status with busy := x.busy, wign := x.wign }
    ctl := x.ctl, reply := x.reply, draws := x.draws, inputs := x.inputs }

/-- The overlay of a completed command: BUSY = 0 and the controller idle. -/
def Overlay.finished (x : Overlay) : Overlay := { x with busy := false, ctl := Controller.idle }

section Effects
variable (x : Overlay) (s : State)

@[simp] theorem overlay_key : (x.on s).key = s.key := rfl
@[simp] theorem overlay_iv : (x.on s).iv = s.iv := rfl
@[simp] theorem overlay_gf : (x.on s).gf = s.gf := rfl
@[simp] theorem overlay_cipherState : (x.on s).cipherState = s.cipherState := rfl
@[simp] theorem overlay_inBytes : inBytes (x.on s) = inBytes s := rfl
@[simp] theorem overlay_memRead (sp : Space) (off n : Nat) : memRead (x.on s) sp off n = memRead s sp off n := rfl
@[simp] theorem overlay_storedRoundKey (r : Nat) : storedRoundKey (x.on s) r = storedRoundKey s r := rfl

theorem setCipherState_overlay (b : Block) : setCipherState b (x.on s) = x.on (setCipherState b s) := rfl
theorem setChain_overlay (b : Block) : setChain b (x.on s) = x.on (setChain b s) := rfl
theorem setProduct_overlay (v : Byte) : setProduct v (x.on s) = x.on (setProduct v s) := rfl
theorem setPadFallback_overlay (f : Bool) : setPadFallback f (x.on s) = x.on (setPadFallback f s) := rfl
theorem writeOutput_overlay (v : Bytes) (n : Nat) : writeOutput v n (x.on s) = x.on (writeOutput v n s) := rfl
theorem writeSchedule_overlay (rk : Bytes) : writeSchedule rk (x.on s) = x.on (writeSchedule rk s) := rfl

theorem setStateToLast_overlay (c : Bytes) : setStateToLast c (x.on s) = x.on (setStateToLast c s) := by
  unfold setStateToLast
  split <;> rfl

/-- An effect reads none of an overlay's fields and writes none of them. -/
theorem commandEffect_overlay (i : Instr) : commandEffect i (x.on s) = x.on (commandEffect i s) := by
  cases i <;>
    simp only [commandEffect, expandKeyEffect, blockEffect, ecbEncEffect, ecbDecEffect, cbcEncEffect, cbcDecEffect,
      padEffect, unpadEffect, gfMulEffect, stateEffect, addRoundKeyEffect, overlay_key, overlay_iv, overlay_gf,
      overlay_cipherState, overlay_inBytes, overlay_memRead, overlay_storedRoundKey, setCipherState_overlay,
      setChain_overlay, setProduct_overlay, setPadFallback_overlay, writeOutput_overlay, writeSchedule_overlay,
      setStateToLast_overlay]

end Effects

/-- The completion of a command from an overlay of a state is that of the state itself, but for the overlay's traces. -/
theorem exec_overlay {i : Instr} {s : State} (x : Overlay) (hc : checkPreconditions i s = none) :
    exec i (x.on s) = .next (x.finished.on (finish (commandEffect i (storeWord (encode i) s)))) := by
  have hc' : checkPreconditions i (x.on s) = none := hc
  have hstore : storeWord (encode i) (x.on s) = x.on (storeWord (encode i) s) := rfl
  rw [exec_of_ok hc', hstore, commandEffect_overlay]
  rfl

/-- The controller's step reads none of the overlay's other fields. -/
theorem advance_overlay {i : Instr} {x : Overlay} (s : State) (h : x.ctl.phase ≠ .accept) :
    advance i (x.on s) = ctlStep i s x.ctl := by
  unfold ctlStep advance
  cases hp : x.ctl.phase with
  | accept => exact absurd hp h
  | idle | init | round | final | unpad | complete => simp only [Overlay.on, hp]
  | keyexp | load | store =>
    simp only [Overlay.on, hp]
    rfl

/-! ## Runs of an executing command -/

theorem run_succ {s t : State} (h : step s = .next t) (n : Nat) :
    Host.Core.run Sys2Proof.core (n + 1) s = Host.Core.run Sys2Proof.core n t := by
  have h' : Sys2Proof.core.step s = .next t := h
  simp only [Host.Core.run, h']

/-- The overlay that an accepted store puts on the stored state. -/
def startOverlay (i : Instr) (s : State) : Overlay :=
  { busy := true, wign := s.status.wign, ctl := startController i s, reply := some (.write .ok), draws := s.draws,
    inputs := s.inputs }

theorem busWrite_cmd_accepted {i : Instr} {s : State} (hs : Ready s) (hc : checkPreconditions i s = none) :
    busWrite 0x0000C (encode i) s = (startOverlay i s).on (storeWord (encode i) s) := by
  obtain ⟨hb, hr⟩ := hs
  obtain ⟨hwf, -⟩ := checkPreconditions_none hc
  rw [busWrite_cmd _ hr hb, storeCommand_ok (decode_encode hwf) hc]
  rfl

/-- With events pending, the step of an executing block serves the oldest. -/
theorem step_overlay {x : Overlay} (s : State) {e : BusEvent} {rest : List BusEvent} (hin : x.inputs = e :: rest) :
    step (x.on s) = serveEvent exec e (Overlay.on { x with inputs := rest } s) :=
  step_of_input (s := x.on s) hin

section Runs
variable {i : Instr} {s : State} (hr : s.inReset = false) (hc : checkPreconditions i s = none)
include hr hc

/-- A clock before COMPLETE is a phase step. -/
theorem clockStep_overlay {x : Overlay} (hx : Executing i x.ctl) (hp : x.ctl.phase ≠ .complete) :
    clockStep exec (x.on s) = .next (Overlay.on { x with ctl := ctlStep i s x.ctl } s) := by
  obtain ⟨hwf, -⟩ := checkPreconditions_none hc
  have hd : decode (x.on s).ctl.word = .command i := by rw [← decode_encode hwf, ← hx.word]; rfl
  rw [clockStep_advance (s := x.on s) hr hx.not_idle hp hd, advance_overlay s hx.not_accept]
  rfl

/-- The clock at COMPLETE performs the captured command. -/
theorem clockStep_overlay_complete {x : Overlay} (hx : Executing i x.ctl) (hp : x.ctl.phase = .complete) :
    clockStep exec (x.on s) = .next (x.finished.on (finish (commandEffect i (storeWord (encode i) s)))) := by
  obtain ⟨hwf, -⟩ := checkPreconditions_none hc
  have hd : decode (x.on s).ctl.word = .command i := by rw [← decode_encode hwf, ← hx.word]; rfl
  rw [clockStep_complete (s := x.on s) hr hp hd, exec_overlay x hc]

/-- With no event pending, n clocks that are left before COMPLETE are n phase steps. -/
theorem run_clocks (n : Nat) (x : Overlay) (hx : Executing i x.ctl) (hin : x.inputs = [])
    (hn : n ≤ clocksLeft i s x.ctl) :
    Host.Core.run Sys2Proof.core n (x.on s) = .next (Overlay.on { x with ctl := (ctlStep i s)^[n] x.ctl } s) := by
  induction n generalizing x with
  | zero => rfl
  | succ n ih =>
    have hp := phase_ne_complete s hx (by omega)
    have hleft := clocksLeft_ctlStep s hx hp
    rw [run_succ ((step_of_no_input hin).trans (clockStep_overlay hr hc hx hp)),
      ih { x with ctl := ctlStep i s x.ctl } (executing_ctlStep s hx) hin (by simp only; omega)]
    rfl

/-- With no event pending, the clocks left and the one at COMPLETE are the completion. -/
theorem run_clocks_to_completion (n : Nat) (x : Overlay) (hx : Executing i x.ctl) (hin : x.inputs = [])
    (hn : clocksLeft i s x.ctl = n) :
    Host.Core.run Sys2Proof.core (n + 1) (x.on s) =
      .next (x.finished.on (finish (commandEffect i (storeWord (encode i) s)))) := by
  induction n generalizing x with
  | zero =>
    have hp := (phase_complete_iff s hx).2 hn
    rw [run_succ ((step_of_no_input hin).trans (clockStep_overlay_complete hr hc hx hp))]
    rfl
  | succ n ih =>
    have hp := phase_ne_complete s hx (by omega)
    have hleft := clocksLeft_ctlStep s hx hp
    rw [run_succ ((step_of_no_input hin).trans (clockStep_overlay hr hc hx hp)),
      ih { x with ctl := ctlStep i s x.ctl } (executing_ctlStep s hx) hin (by simp only; omega)]
    rfl

end Runs

/-- Settles O46: the store leaves as many clocks as the table counts, all but the last are phase steps, and the last
performs the command on the operands of the store. -/
theorem clocksFromStoreToCompletionAreExec : Obligations.ClocksFromStoreToCompletionAreExec := by
  unfold Obligations.ClocksFromStoreToCompletionAreExec
  intro i s hs hin hc
  obtain ⟨-, hr⟩ := id hs
  have hexec : exec i { s with reply := some (.write .ok) } =
      .next ((startOverlay i s).finished.on (finish (commandEffect i (storeWord (encode i) s)))) :=
    exec_overlay { startOverlay i s with busy := s.status.busy, ctl := s.ctl } hc
  rw [hexec, busWrite_cmd_accepted hs hc, ← clocksLeft_startController i s]
  exact run_clocks_to_completion (s := storeWord (encode i) s) hr hc _ (startOverlay i s)
    (executing_startController i s) hin rfl

/-! ## Runs with transactions in between (R70, R71) -/

/-- A read changes the reply and the draw counter only, in reset or out of it. -/
theorem busRead_eq (off : Offset) (s : State) : ∃ r n, busRead off s = { s with reply := r, draws := n } := by
  unfold busRead
  repeat' split
  all_goals exact ⟨_, _, rfl⟩

theorem busRead_overlay (off : Offset) (x : Overlay) (s : State) :
    ∃ r n, busRead off (x.on s) = Overlay.on { x with reply := r, draws := n } s := by
  obtain ⟨r, n, h⟩ := busRead_eq off (x.on s)
  exact ⟨r, n, h⟩

/-- A write to an executing block leaves its reply, and WIGN where it is aligned. -/
theorem busWrite_overlay (off : Offset) (d : Word) {x : Overlay} {s : State} (hb : x.busy = true)
    (hr : s.inReset = false) :
    ∃ r, busWrite off d (x.on s) =
      Overlay.on { x with wign := x.wign || isAlignedWrite (.write off d), reply := r } s := by
  by_cases ha : off.toNat % 4 = 0
  · refine ⟨some (.write .ok), ?_⟩
    rw [busWrite_busy (s := x.on s) d hr ha hb]
    simp [isAlignedWrite, ha, Overlay.on, Status.writeIgnored]
  · refine ⟨some (.write .error), ?_⟩
    rw [busWrite_misaligned (s := x.on s) d hr ha]
    simp [isAlignedWrite, ha, Overlay.on]

/-- Whatever reads, writes and clocks come, the clocks left bring the controller to COMPLETE and the next one performs
the command; WIGN records the aligned writes. -/
theorem run_events_to_completion {i : Instr} {s : State} (hr : s.inReset = false)
    (hc : checkPreconditions i s = none) (events : List BusEvent) (x : Overlay) (hb : x.busy = true)
    (hx : Executing i x.ctl) (hin : x.inputs = events ++ [.clock]) (hall : events.all isNotReset = true)
    (hcount : events.countP (· == .clock) = clocksLeft i s x.ctl) :
    ∃ y : Overlay, y.wign = (x.wign || events.any isAlignedWrite) ∧
      Host.Core.run Sys2Proof.core (events.length + 1) (x.on s) =
        .next (y.finished.on (finish (commandEffect i (storeWord (encode i) s)))) := by
  induction events generalizing x with
  | nil =>
    have hp := (phase_complete_iff s hx).2 hcount.symm
    refine ⟨{ x with inputs := [] }, by simp, ?_⟩
    rw [run_succ ((step_overlay s hin).trans
      (clockStep_overlay_complete hr hc (x := { x with inputs := [] }) hx hp))]
    rfl
  | cons e events ih =>
    obtain ⟨he, hall⟩ : isNotReset e = true ∧ events.all isNotReset = true := by simpa using hall
    have hstep := step_overlay s hin
    cases e with
    | assertReset | releaseReset => cases he
    | read off =>
      obtain ⟨r, n, hread⟩ := busRead_overlay off { x with inputs := events ++ [.clock] } s
      obtain ⟨y, hy, hrun⟩ := ih { x with inputs := events ++ [.clock], reply := r, draws := n } hb hx rfl hall
        (by simpa using hcount)
      refine ⟨y, by simpa [isAlignedWrite] using hy, ?_⟩
      rw [List.length_cons, run_succ (hstep.trans (congrArg Host.Outcome.next hread)), hrun]
    | write off d =>
      obtain ⟨r, hwrite⟩ := busWrite_overlay off d (x := { x with inputs := events ++ [.clock] }) hb hr
      obtain ⟨y, hy, hrun⟩ := ih
        { x with inputs := events ++ [.clock], wign := x.wign || isAlignedWrite (.write off d), reply := r }
        hb hx rfl hall (by simpa using hcount)
      refine ⟨y, by simpa [Bool.or_assoc] using hy, ?_⟩
      rw [List.length_cons, run_succ (hstep.trans (congrArg Host.Outcome.next hwrite)), hrun]
    | clock =>
      rw [List.countP_cons_of_pos (by simp)] at hcount
      have hp := phase_ne_complete s hx (by omega)
      have hleft := clocksLeft_ctlStep s hx hp
      obtain ⟨y, hy, hrun⟩ := ih { x with inputs := events ++ [.clock], ctl := ctlStep i s x.ctl } hb
        (executing_ctlStep s hx) rfl hall (by simp only; omega)
      refine ⟨y, by simpa [isAlignedWrite] using hy, ?_⟩
      rw [List.length_cons, run_succ (hstep.trans
        (clockStep_overlay hr hc (x := { x with inputs := events ++ [.clock] }) hx hp)), hrun]

/-- Settles O47: a transaction moves neither the controller nor an operand, so the clocks alone count, and the completion
is exec's but for the transactions' traces. -/
theorem transactionsWhileBusyDoNotChangeTheResult : Obligations.TransactionsWhileBusyDoNotChangeTheResult := by
  unfold Obligations.TransactionsWhileBusyDoNotChangeTheResult
  intro i s events hs hc hall hcount
  obtain ⟨-, hr⟩ := id hs
  have hleft : events.countP (· == .clock) =
      clocksLeft i (storeWord (encode i) s) (startController i s) := by
    have := clocksLeft_startController i s
    omega
  obtain ⟨y, hy, hrun⟩ := run_events_to_completion (s := storeWord (encode i) s) hr hc events
    { startOverlay i s with inputs := events ++ [.clock] } rfl (executing_startController i s) rfl hall hleft
  rw [busWrite_cmd_accepted hs hc]
  exact ⟨_, _, hrun, exec_of_ok hc, rfl, hy⟩

end Sys2Proof.Machine
end

section
/-! SUPPORT. The settled statement that the phase steps compute what the completion writes (44_block_cipher.md section 2,
46_modes.md R230). The blocks are counted: once b of them are done, the controller holds the first 16b bytes of the
output and the chaining value of block b. -/

namespace Sys2Proof.Machine

/-! ## What the controller holds between two blocks -/

/-- The bytes whose blocks CBC chains on: the output when enciphering, the input when deciphering (R233, R235). -/
def chainedBytes (i : Instr) (s : State) : Bytes := if i = .cbcEnc then outputBytes i s else inBytes s

/-- The chaining value of block b: IV for the first, else the ciphertext block before it. -/
def chainBefore (i : Instr) (s : State) (b : Nat) : Block :=
  if b = 0 then s.iv else blockOfBytes (slice (chainedBytes i s) (16 * (b - 1)) 16)

/-- What the controller holds once its first `c.blk` blocks are done. -/
structure BlocksDone (i : Instr) (s : State) (c : Controller) : Prop where
  sched : usesKey i = true → c.sched = keyExpansion s.key
  out : c.out = (outputBytes i s).take (16 * c.blk)
  runLen : c.runLen = c.out.length
  prev : i = .cbcEnc ∨ i = .cbcDec → c.prev = chainBefore i s c.blk

/-- The cipher of a command: InvCipher where it deciphers, else Cipher. -/
def blockCipher (i : Instr) (block : Block) (rk : Bytes) : Block :=
  if engine i = .decipher then invCipher block rk else cipher block rk

/-- The controller with its current block stored, before the next block's first phase. -/
def storeBlock (i : Instr) (s : State) (c : Controller) : Controller :=
  { c with
    out := c.out ++ storedBytes i s c
    runLen := c.runLen + (storedBytes i s c).length
    prev := nextPrevious i s c
    blk := c.blk + 1 }

theorem storeStep_eq (i : Instr) (s : State) (c : Controller) :
    storeStep i s c = nextBlock i s (storeBlock i s c) := rfl

/-! ## The output block by block -/

/-- A block command has one block, and it is the input. -/
theorem blockCommand_input {i : Instr} (hi : i = .encBlock ∨ i = .decBlock) {s : State} {b : Nat}
    (hc : checkPreconditions i s = none) (hb : b < blockCount i s) :
    b = 0 ∧ inputBlockBytes i s b = memRead s .inBuf 0 16 := by
  obtain ⟨-, -, -, hshape⟩ := checkPreconditions_none hc
  have hlen : s.inLen.toNat = 16 := by
    obtain rfl | rfl := hi <;> simpa [shapeError] using hshape
  have hin : blockInput i s = inBytes s := by obtain rfl | rfl := hi <;> rfl
  have hb0 : b = 0 := by
    rw [blockCount, hin, inBytes_length, hlen] at hb
    omega
  refine ⟨hb0, ?_⟩
  rw [inputBlockBytes, hin, hb0, inBytes, hlen, slice_memRead s .inBuf (by omega)]

/-- A mode takes whole blocks: an encryption prepares them, and a decryption's check asks for them. -/
theorem mode_blockInput_aligned {i : Instr} (hi : i = .ecbEnc ∨ i = .cbcEnc ∨ i = .ecbDec ∨ i = .cbcDec) {s : State}
    (hc : checkPreconditions i s = none) : (blockInput i s).length % 16 = 0 := by
  obtain ⟨-, -, -, hshape⟩ := checkPreconditions_none hc
  obtain rfl | rfl | rfl | rfl := hi
  · exact prepare_length_aligned _
  · exact prepare_length_aligned _
  all_goals
    simp only [shapeError, ite_eq_right_iff, reduceCtorEq, imp_false] at hshape
    simp only [blockInput, inBytes_length]
    omega

theorem mode_block_lt {i : Instr} (hi : i = .ecbEnc ∨ i = .cbcEnc ∨ i = .ecbDec ∨ i = .cbcDec) {s : State} {b : Nat}
    (hc : checkPreconditions i s = none) (hb : b < blockCount i s) : b < (blockInput i s).length / 16 := by
  have hal := mode_blockInput_aligned hi hc
  rw [blockCount] at hb
  omega

/-- The block that a command's cipher makes of its input block b: CBC encryption chains before it. -/
def cipherBlock (i : Instr) (s : State) (b : Nat) (previous : Block) : Block :=
  blockCipher i
    (if i = .cbcEnc then xorBlock (blockOfBytes (inputBlockBytes i s b)) previous
      else blockOfBytes (inputBlockBytes i s b))
    (keyExpansion s.key)

/-- Block b of the output of a command with a cipher: CBC decryption chains after it. -/
theorem slice_outputBytes {i : Instr} {s : State} {b : Nat} (hc : checkPreconditions i s = none)
    (hi : engine i = .encipher ∨ engine i = .decipher) (hb : b < blockCount i s) :
    slice (outputBytes i s) (16 * b) 16 =
      blockBytes (if i = .cbcDec then xorBlock (cipherBlock i s b (chainBefore i s b)) (chainBefore i s b)
        else cipherBlock i s b (chainBefore i s b)) := by
  have hblock (c : Block) : slice (blockBytes c) 0 16 = blockBytes c := by
    simp [slice, List.take_of_length_le]
  cases i <;> simp only [engine, reduceCtorEq, or_self] at hi
  case encBlock =>
    obtain ⟨rfl, hin⟩ := blockCommand_input (.inl rfl) hc hb
    simp [outputBytes, cipherBlock, blockCipher, engine, hin, hblock]
  case decBlock =>
    obtain ⟨rfl, hin⟩ := blockCommand_input (.inr rfl) hc hb
    simp [outputBytes, cipherBlock, blockCipher, engine, hin, hblock]
  case ecbEnc => exact slice_ecbEncBytes _ _ b (mode_block_lt (by simp) hc hb)
  case ecbDec => exact slice_ecbDecBytes _ _ b (mode_block_lt (by simp) hc hb)
  case cbcEnc => exact slice_cbcEncBytes _ _ _ b (mode_block_lt (by simp) hc hb)
  case cbcDec => exact slice_cbcDecBytes _ _ _ b (mode_block_lt (by simp) hc hb)

/-! ## One block -/

/-- The working state of a block that is ready to be stored. -/
def BlockComputed (i : Instr) (s : State) (c : Controller) : Prop :=
  engine i = .copy ∨
    ((engine i = .encipher ∨ engine i = .decipher) ∧ c.work = cipherBlock i s c.blk (chainBefore i s c.blk))

/-- The bytes STORE puts out for a block are the output's. -/
theorem storedBytes_eq {i : Instr} {s : State} {c : Controller} (hc : checkPreconditions i s = none)
    (h : BlocksDone i s c) (hb : c.blk < blockCount i s) (hwork : BlockComputed i s c) :
    storedBytes i s c = slice (outputBytes i s) (16 * c.blk) 16 := by
  obtain hi | ⟨hi, hwork⟩ := hwork
  · cases i <;> simp only [engine, reduceCtorEq] at hi
    case pad | unpad => rfl
  · have hcopy : engine i ≠ .copy := by obtain hi | hi := hi <;> simp [hi]
    rw [slice_outputBytes hc hi hb, storedBytes, if_neg hcopy, ← hwork]
    split
    · rename_i hdec
      rw [h.prev (.inr hdec)]
    · rfl

/-- `previous` becomes the block that the next one chains on (R233, R235). -/
theorem nextPrevious_eq {i : Instr} {s : State} {c : Controller} (hcbc : i = .cbcEnc ∨ i = .cbcDec)
    (hstored : storedBytes i s c = slice (outputBytes i s) (16 * c.blk) 16) :
    nextPrevious i s c = chainBefore i s (c.blk + 1) := by
  obtain rfl | rfl := hcbc
  · have hwork : blockOfBytes (storedBytes .cbcEnc s c) = c.work := blockOfBytes_blockBytes c.work
    rw [chainBefore, if_neg (Nat.succ_ne_zero _), Nat.add_sub_cancel, chainedBytes, if_pos rfl, ← hstored, hwork]
    rfl
  · rfl

/-- A stored block is one more done. -/
theorem BlocksDone.store {i : Instr} {s : State} {c : Controller} (h : BlocksDone i s c)
    (hc : checkPreconditions i s = none) (hb : c.blk < blockCount i s) (hwork : BlockComputed i s c) :
    BlocksDone i s (storeBlock i s c) := by
  have hstored := storedBytes_eq hc h hb hwork
  refine ⟨h.sched, ?_, ?_, fun hcbc => nextPrevious_eq hcbc hstored⟩
  · simp only [storeBlock, hstored, h.out]
    rw [Nat.mul_add, List.take_add]
    rfl
  · simp [storeBlock, h.runLen]

/-- The clocks of a block: one where it is copied, thirteen where it passes through a cipher. -/
def clocksPerBlock (i : Instr) : Nat := if engine i = .copy then 1 else 13

/-- The eleven steps of a block in a command with a cipher. -/
theorem iterate_cipher {i : Instr} (hi : engine i = .encipher ∨ engine i = .decipher) (s : State) (c : Controller)
    (hp : c.phase = .init) :
    ∃ r, (ctlStep i s)^[11] c = { c with phase := .store, rnd := r, work := blockCipher i c.work c.sched } := by
  obtain hi | hi := hi
  · exact ⟨10, by rw [iterate_block_encipher hi s c hp, blockCipher, if_neg (by simp [hi])]⟩
  · exact ⟨0, by rw [iterate_block_decipher hi s c hp, blockCipher, if_pos hi]⟩

theorem usesKey_of_cipher {i : Instr} (hi : engine i = .encipher ∨ engine i = .decipher) : usesKey i = true := by
  cases i <;> simp [engine, usesKey] at hi ⊢

/-- The steps of a block end at the next one, with one more block done. -/
theorem iterate_block {i : Instr} {s : State} {c : Controller} (hc : checkPreconditions i s = none)
    (hi : engine i = .copy ∨ engine i = .encipher ∨ engine i = .decipher) (h : BlocksDone i s c)
    (hb : c.blk < blockCount i s) :
    ∃ c', BlocksDone i s c' ∧ c'.blk = c.blk + 1 ∧
      (ctlStep i s)^[clocksPerBlock i] (nextBlock i s c) = nextBlock i s c' := by
  obtain hcopy | hcipher := hi
  · have hstart : nextBlock i s c = { c with phase := .store, rnd := 0 } := by
      rw [nextBlock, if_pos hb, if_pos hcopy]
    have h' : BlocksDone i s { c with phase := .store, rnd := 0 } := ⟨h.sched, h.out, h.runLen, h.prev⟩
    refine ⟨_, h'.store hc hb (.inl hcopy), rfl, ?_⟩
    rw [clocksPerBlock, if_pos hcopy, Function.iterate_one, hstart, ctlStep_store rfl, storeStep_eq]
  · have hcopy : engine i ≠ .copy := by obtain hi | hi := hcipher <;> simp [hi]
    have hstart : nextBlock i s c = { c with phase := .load, rnd := 0 } := by
      rw [nextBlock, if_pos hb, if_neg hcopy]
    obtain ⟨r, hsteps⟩ := iterate_cipher hcipher s (loadStep i s { c with phase := .load, rnd := 0 }) rfl
    have h' : BlocksDone i s
        { loadStep i s { c with phase := .load, rnd := 0 } with
          phase := .store, rnd := r
          work := blockCipher i (loadStep i s { c with phase := .load, rnd := 0 }).work c.sched } :=
      ⟨h.sched, h.out, h.runLen, h.prev⟩
    refine ⟨_, h'.store hc hb (.inr ⟨hcipher, ?_⟩), rfl, ?_⟩
    · simp only [loadStep, cipherBlock, h.sched (usesKey_of_cipher hcipher)]
      split
      · rename_i hcbc
        rw [h.prev (.inl hcbc)]
      · rfl
    · rw [clocksPerBlock, if_neg hcopy, Function.iterate_succ_apply', Function.iterate_succ_apply, hstart,
        ctlStep_load (c := { c with phase := .load, rnd := 0 }) rfl, hsteps, ctlStep_store rfl, storeStep_eq]
      rfl

/-! ## All blocks -/

/-- The steps of the n blocks that are left end behind the last. -/
theorem iterate_blocks {i : Instr} {s : State} (hc : checkPreconditions i s = none)
    (hi : engine i = .copy ∨ engine i = .encipher ∨ engine i = .decipher) (n : Nat) (c : Controller)
    (h : BlocksDone i s c) (hn : c.blk + n = blockCount i s) :
    ∃ c', BlocksDone i s c' ∧ c'.blk = blockCount i s ∧
      (ctlStep i s)^[clocksPerBlock i * n] (nextBlock i s c) = afterBlocks i c' := by
  induction n generalizing c with
  | zero => exact ⟨c, h, hn, by rw [nextBlock, if_neg (by omega)]; rfl⟩
  | succ n ih =>
    obtain ⟨c₁, h₁, hblk, hstep⟩ := iterate_block hc hi h (by omega)
    obtain ⟨c', h', hblk', hsteps⟩ := ih c₁ h₁ (by omega)
    refine ⟨c', h', hblk', ?_⟩
    rw [Nat.mul_succ, Function.iterate_add_apply, hstep, hsteps]

/-- What the controller holds at COMPLETE: the schedule, the whole output, OUT_LEN's value and the last chaining
value. -/
structure Arrived (i : Instr) (s : State) (c : Controller) : Prop where
  sched : usesKey i = true → c.sched = keyExpansion s.key
  out : readsIn i = true → c.out = outputBytes i s
  runLen : readsIn i = true →
    c.runLen = if unpads i = true then (unpadGuard (outputBytes i s)).1.length else (outputBytes i s).length
  prev : i = .cbcEnc ∨ i = .cbcDec → c.prev = chainBefore i s (blockCount i s)

/-- With every block done, the controller holds the whole output. -/
theorem BlocksDone.out_eq {i : Instr} {s : State} {c : Controller} (h : BlocksDone i s c)
    (hc : checkPreconditions i s = none) (hblk : c.blk = blockCount i s) : c.out = outputBytes i s := by
  have hlen := outputBytes_length hc
  rw [h.out, hblk, List.take_of_length_le]
  rw [blockCount]
  omega

/-- The steps from a block's start to COMPLETE: those of the blocks left, and the unpad step where there is one. -/
theorem arrived_of_blocksDone {i : Instr} {s : State} {c : Controller} (hc : checkPreconditions i s = none)
    (hi : engine i = .copy ∨ engine i = .encipher ∨ engine i = .decipher) (h : BlocksDone i s c) (hblk : c.blk = 0) :
    Arrived i s ((ctlStep i s)^[clocksAfter i s 0] (nextBlock i s c)) := by
  obtain ⟨c', h', hblk', hsteps⟩ := iterate_blocks hc hi (blockCount i s) c h (by omega)
  have hout := h'.out_eq hc hblk'
  have hclocks : clocksAfter i s 0 = (if unpads i = true then 1 else 0) + clocksPerBlock i * blockCount i s := by
    rw [clocksAfter, clocksPerBlock, Nat.sub_zero, Nat.add_comm]
  rw [hclocks, Function.iterate_add_apply, hsteps]
  cases hu : unpads i with
  | false =>
    refine ⟨h'.sched, fun _ => hout, fun _ => ?_, fun hcbc => (h'.prev hcbc).trans (by rw [hblk'])⟩
    rw [hu, ← hout]
    exact h'.runLen
  | true =>
    have hafter : afterBlocks i c' = { c' with phase := .unpad, rnd := 0 } := by rw [afterBlocks, if_pos hu]
    rw [if_pos rfl, Function.iterate_one, hafter, ctlStep_unpad rfl]
    refine ⟨h'.sched, fun _ => hout, fun _ => ?_, fun hcbc => (h'.prev hcbc).trans (by rw [hblk'])⟩
    rw [hu, ← hout]
    rfl

/-! ## The key expansion (43_key_schedule.md R171) -/

theorem appendWords_add (m n : Nat) (w : Bytes) : appendWords (m + n) w = appendWords n (appendWords m w) := by
  induction m generalizing w with
  | zero => rw [Nat.zero_add]; rfl
  | succ m ih => rw [Nat.succ_add, appendWords, ih]; rfl

/-- The expansion steps from rnd up to 10 produce a round key each. -/
theorem iterate_keyexp (i : Instr) (s : State) (n : Nat) (c : Controller) (hp : c.phase = .keyexp)
    (hr : c.rnd + n = 10) :
    (ctlStep i s)^[n + 1] c =
      keyexpStep i s { c with rnd := 10, sched := appendWords (4 * n) c.sched } := by
  induction n generalizing c with
  | zero =>
    rw [Function.iterate_one, ctlStep_keyexp hp, ← hr]
    rfl
  | succ n ih =>
    have hstep : ctlStep i s c = { c with rnd := c.rnd + 1, sched := appendWords 4 c.sched } := by
      rw [ctlStep_keyexp hp, keyexpStep]
      exact if_pos (by omega)
    rw [Function.iterate_succ_apply, hstep,
      ih { c with rnd := c.rnd + 1, sched := appendWords 4 c.sched } hp (by simp only; omega), Nat.mul_succ,
      Nat.add_comm (4 * n) 4, appendWords_add]

/-- Ten steps after its start, the expansion has produced the schedule of KEY. -/
theorem iterate_startExpansion (i : Instr) (s : State) (c : Controller) :
    (ctlStep i s)^[10] (startExpansion s c) =
      if engine i = .schedule then
        { c with phase := .complete, rnd := 0, sched := keyExpansion s.key }
      else nextBlock i s { c with phase := .keyexp, rnd := 10, sched := keyExpansion s.key } := by
  have hsched : appendWords 4 (appendWords (4 * 9) (blockBytes s.key)) = keyExpansion s.key :=
    (appendWords_add (4 * 9) 4 (blockBytes s.key)).symm
  rw [iterate_keyexp i s 9 (startExpansion s c) rfl rfl, keyexpStep, ← hsched]
  rfl

/-! ## From the store to COMPLETE -/

/-- A controller that has done no block yet, with the schedule at hand. -/
theorem blocksDone_zero {i : Instr} {s : State} {c : Controller} (hblk : c.blk = 0) (hout : c.out = [])
    (hlen : c.runLen = 0) (hprev : c.prev = firstPrevious i s)
    (hsched : usesKey i = true → c.sched = keyExpansion s.key) : BlocksDone i s c := by
  refine ⟨hsched, ?_, ?_, fun hcbc => ?_⟩
  · rw [hout, hblk]; rfl
  · rw [hlen, hout]; rfl
  · rw [hprev, hblk]
    obtain rfl | rfl := hcbc <;> rfl

/-- The commands on each engine, as R251 lists them. -/
theorem engine_single {i : Instr} (h : engine i = .single) :
    usesKey i = false ∧ readsIn i = false ∧ i ≠ .cbcEnc ∧ i ≠ .cbcDec := by
  cases i <;> simp [engine, usesKey, readsIn] at h ⊢

theorem engine_schedule {i : Instr} (h : engine i = .schedule) : i = .expandKey := by
  cases i <;> simp [engine] at h ⊢

theorem engine_copy {i : Instr} (h : engine i = .copy) : usesKey i = false := by
  cases i <;> simp [engine, usesKey] at h ⊢

/-- The clocks that are left when ACCEPT is left lead to a controller that holds the results. -/
theorem arrived_of_leaveAccept {i : Instr} {s : State} (hc : checkPreconditions i s = none) (hrk : RoundKeysOk s)
    {c : Controller} (hblk : c.blk = 0) (hout : c.out = []) (hlen : c.runLen = 0)
    (hprev : c.prev = firstPrevious i s) :
    Arrived i s ((ctlStep i s)^[clocksLeft i s (leaveAccept i s c)] (leaveAccept i s c)) := by
  unfold leaveAccept
  cases hi : engine i with
  | single =>
    obtain ⟨hkey, hread, henc, hdec⟩ := engine_single hi
    exact ⟨by simp [hkey], by simp [hread], by simp [hread], by simp [henc, hdec]⟩
  | schedule =>
    obtain rfl := engine_schedule hi
    have hclocks : clocksLeft .expandKey s (startExpansion s c) = 10 := rfl
    simp only
    rw [hclocks, iterate_startExpansion, if_pos hi]
    exact ⟨fun _ => rfl, fun h => absurd h (by decide), fun h => absurd h (by decide), fun h => absurd h (by decide)⟩
  | copy =>
    have h0 := blocksDone_zero (i := i) (s := s) hblk hout hlen hprev (by simp [engine_copy hi])
    simp only [clocksLeft_nextBlock, hblk]
    exact arrived_of_blocksDone hc (.inl hi) h0 hblk
  | encipher | decipher =>
    have hcipher : engine i = .encipher ∨ engine i = .decipher := by simp [hi]
    have hschedule : engine i ≠ .schedule := by simp [hi]
    simp only
    split
    · rename_i hv
      have h0 : BlocksDone i s { c with sched := memRead s .rk 0 176 } :=
        blocksDone_zero hblk hout hlen hprev fun _ => (hrk hv).1
      have hclocks : clocksLeft i s (nextBlock i s { c with sched := memRead s .rk 0 176 }) = clocksAfter i s 0 :=
        (clocksLeft_nextBlock ..).trans (congrArg _ hblk)
      rw [hclocks]
      exact arrived_of_blocksDone hc (.inr hcipher) h0 hblk
    · have h0 : BlocksDone i s { c with phase := .keyexp, rnd := 10, sched := keyExpansion s.key } :=
        blocksDone_zero hblk hout hlen hprev fun _ => rfl
      have hclocks : clocksLeft i s (startExpansion s c) = clocksAfter i s 0 + 10 := by
        simp [clocksLeft, startExpansion, hschedule, hblk, Nat.add_comm]
      rw [hclocks, Function.iterate_add_apply, iterate_startExpansion, if_neg hschedule]
      exact arrived_of_blocksDone hc (.inr hcipher) h0 hblk

/-! ## What the completion writes -/

/-- The last chaining value is `previous` after the last block (R233, R235). -/
theorem chainBefore_blockCount {i : Instr} (hi : i = .cbcEnc ∨ i = .cbcDec) {s : State}
    (hc : checkPreconditions i s = none) :
    chainBefore i s (blockCount i s) =
      if chainedBytes i s = [] then s.iv else lastBlock (chainedBytes i s) := by
  have hlen : (chainedBytes i s).length = (blockInput i s).length := by
    obtain rfl | rfl := hi
    · exact outputBytes_length hc
    · rfl
  have hal := mode_blockInput_aligned (by tauto) hc
  have hnil : chainedBytes i s = [] ↔ blockCount i s = 0 := by
    rw [← List.length_eq_zero_iff, hlen, blockCount]
    omega
  by_cases hne : chainedBytes i s = []
  · rw [if_pos hne, chainBefore, if_pos (hnil.1 hne)]
  · have hpos := mt hnil.2 hne
    have hoffset : 16 * (blockCount i s - 1) = (chainedBytes i s).length - 16 := by
      rw [blockCount] at hpos ⊢
      omega
    rw [if_neg hne, chainBefore, if_neg hpos, hoffset, lastBlock]

/-- CHAIN takes the last chaining value (R234, R236). -/
theorem commandEffect_chain {i : Instr} (hi : i = .cbcEnc ∨ i = .cbcDec) {s : State}
    (hc : checkPreconditions i s = none) :
    (commandEffect i s).chain = chainBefore i s (blockCount i s) := by
  have hal := mode_blockInput_aligned (by tauto) hc
  rw [chainBefore_blockCount hi hc]
  obtain rfl | rfl := hi
  · have hnil : chainedBytes .cbcEnc s = [] ↔ prepare (inBytes s) = [] := by
      have hlen : (chainedBytes .cbcEnc s).length = (prepare (inBytes s)).length := outputBytes_length hc
      rw [← List.length_eq_zero_iff, hlen, List.length_eq_zero_iff]
    rw [commandEffect, cbcEncEffect_eq _ rfl]
    simp only [hnil]
    exact cbcEncBytes_previous _ _ hal
  · rw [commandEffect, cbcDecEffect_eq _ rfl]
    exact cbcDecBytes_previous _ _ hal

theorem outputBytes_storeWord (i : Instr) (w : Word) (s : State) : outputBytes i (storeWord w s) = outputBytes i s := by
  cases i <;> rfl

/-- The OUT_LEN of a completion is the running length: no output is as long as 2^32 bytes. -/
theorem outLen_of_arrived {i : Instr} {s : State} {c : Controller} (hc : checkPreconditions i s = none)
    (hread : readsIn i = true) (h : Arrived i s c) : c.runLen = (commandEffect i s).outLen.toNat := by
  have hlen := outputBytes_length hc
  have hle := blockInput_length_le hc
  have hunpad := unpadGuard_length_le (outputBytes i s)
  have hbuf : bufBytes s ≤ 65520 := by unfold bufBytes; omega
  rw [h.runLen hread, commandEffect_outLen hread, BitVec.toNat_ofNat, Nat.mod_eq_of_lt]
  split <;> omega

/-- Settles O49: block by block the phase steps build the output that the completion writes, from the schedule that the
expansion produced or RK holds. -/
theorem controllerArrivesAtTheResult : Obligations.ControllerArrivesAtTheResult := by
  unfold Obligations.ControllerArrivesAtTheResult
  intro i s hs hrk hin hc
  obtain ⟨-, hr⟩ := id hs
  have hstart := executing_startController i s
  have hcount : cycleCount i s - 1 = clocksLeft i (storeWord (encode i) s) (startController i s) := by
    have := clocksLeft_startController i s
    omega
  have hrun := run_clocks (s := storeWord (encode i) s) hr hc _ (startOverlay i s) hstart hin hcount.le
  have harrived : Arrived i (storeWord (encode i) s)
      ((ctlStep i (storeWord (encode i) s))^[cycleCount i s - 1] (startController i s)) := by
    rw [hcount, startController, acceptCommand_ctl]
    exact arrived_of_leaveAccept (s := storeWord (encode i) s) hc hrk rfl rfl rfl rfl
  rw [busWrite_cmd_accepted hs hc]
  refine ⟨_, _, hrun, exec_of_ok hc, iterate_clocksLeft_phase _ _ hstart hcount.symm, harrived.sched,
    fun hread => ⟨?_, outLen_of_arrived (s := storeWord (encode i) s) hc hread harrived⟩, fun hcbc => ?_⟩
  · have hlen : outBytesWritten i s = (outputBytes i (storeWord (encode i) s)).length := by
      rw [outputBytes_storeWord]
      exact (outputBytes_length hc).symm
    rw [hlen, memRead_outputBytes]
    exact harrived.out hread
  · exact (harrived.prev hcbc).trans (commandEffect_chain (s := storeWord (encode i) s) hcbc hc).symm

end Sys2Proof.Machine
end
